-- ==== Sys2Proof/Word.lean ====
section
/-! DEFINITION. The word types of UCFG: spec/30_encoding.md R60 and spec/20_memory.md R40. -/

namespace Sys2Proof

/-- A 32-bit host command word (R60, R61). -/
abbrev CmdWord := BitVec 32

/-- The 4-bit micro-op code, the value of STEP (R60, R68). -/
abbrev StepCode := BitVec 4

/-- A register number on the register bus (R40). -/
abbrev RegNum := BitVec 5

/-- One byte, only for the byte-bus mapping of R43. -/
abbrev Byte := BitVec 8

end Sys2Proof
end

