-- ==== Sys2Proof/Syntax.lean ====
section
/-! DEFINITION. The instructions of UCFG, one constructor for each row of spec/opcode_table.json, and the
names of their operand values. -/

namespace Sys2Proof

/-- The UART a command is for (R65): INST 0 is the document's instance 1, INST 1 its instance 2. -/
inductive Inst where
  | u1
  | u2
deriving DecidableEq, Repr

/-- The sampling mode (R64): standard x16 or high-speed x8. -/
inductive Sampling where
  | std
  | hs
deriving DecidableEq, Repr

/-- The number of stop bits (R64). -/
inductive StopBits where
  | one
  | two
deriving DecidableEq, Repr

/-- The three legal parity settings (R63). The 2-bit code 3 is reserved and names none of them. -/
inductive Parity where
  | disabled
  | odd
  | even
deriving DecidableEq, Repr

/-- One constructor for each row of spec/opcode_table.json.
`init` keeps PAR and BAUD as the bits of the word, because a word with PAR = 3 or an unsupported baud rate is
still an INIT: its meaning raises the fault (R116, R119).
`initNull` keeps the 27 bits that R118 ignores, so that no bit of a word is dropped.
A micro-op has no operand fields; its operands are the working registers (R68). -/
inductive Instr where
  | init (inst : Inst) (hse : Sampling) (stp2 : StopBits) (par : BitVec 2) (wlen : BitVec 2) (baud : BitVec 20)
  | initNull (ignored : BitVec 27)
  | clku
  | clkp
  | barr
  | dis
  | wibrd
  | wfbrd
  | wlcrh
  | pins
  | ena
deriving DecidableEq, Repr

end Sys2Proof
end

