-- ==== Sys2Proof/Config.lean ====
section
/-! DEFINITION. What an implementation fixes (spec/00_scope.md R5) and the values no rule fixes.
The opaque constants have no body: a claim about one holds for every value of it. -/

namespace Sys2Proof.Config

/-- REF_HZ, the fixed reference clock in hertz: 16 MHz is the value R5 gives (log entry 6). -/
def refHz : Nat := 16000000

/-- The constraint R5 puts on a value of REF_HZ. -/
abbrev RefHzLegal (ref : Nat) : Prop := 1 ≤ ref ∧ ref < 2 ^ 32 ∧ ref / (8 * 2400) + 1 ≤ 65535

/-- BAUD_SET, as a membership test: the default R5 gives for a model that needs one, the whole interval
2400 to 1,000,000. DESIGN CHOICE, unsafe (log entry 5). -/
def baudSet (b : BitVec 20) : Bool := decide (2400 ≤ b.toNat ∧ b.toNat ≤ 1000000)

/-- The constraint R5 puts on BAUD_SET: it holds 2400, 9600 and 1,000,000 and stays in the interval. -/
def BaudSetLegal (mem : BitVec 20 → Bool) : Prop :=
  mem 2400 = true ∧ mem 9600 = true ∧ mem 1000000 = true ∧
    ∀ b, mem b = true → 2400 ≤ b.toNat ∧ b.toNat ≤ 1000000

/-- The value on `clkstat_i` at the n-th read of CLKSTAT: a draw of the environment (R22). FREE VALUE (log entry 7). -/
opaque clkstat : Nat → BitVec 32

/-- What the output wire of a register that holds no value carries at one observation of it: unspecified, and two
observations need not agree (R28). FREE VALUE (log entry 4). -/
opaque undefWire : RegNum → Nat → BitVec 16

/-- What a byte of a byte-addressed bus carries at one observation in the bits above the top bit of a register whose width is
no multiple of 8: R43 does not say. FREE VALUE, DESIGN CHOICE, safe (log entry 17). -/
opaque busFill : Nat → Byte

/-- REG_ADDR, the platform's bus address of a register: OPEN in R5, read by no rule (R52). -/
opaque regAddr : RegNum → Nat

/-- PINMAP, the pins P of an instance, each with its alternate function F: OPEN in R5, read by no rule. -/
opaque pinMap : Inst → List (Nat × Nat)

end Sys2Proof.Config
end

