-- ==== Sys2Proof/WellFormed.lean ====
section
/-! DEFINITION. Which instructions carry legal operands: the constraints column of spec/opcode_table.json,
spec/30_encoding.md R63, R66 and R71. -/

namespace Sys2Proof

/-- PAR is one of the three legal codes (R63). -/
def parLegal (par : BitVec 2) : Bool := par != 3

/-- An INIT is well formed when PAR is legal and BAUD is in BAUD_SET (R76 (4)); every other instruction always is.
The others are not rejected by the decoder: their meaning takes the fault R119 names. -/
def Instr.wellFormed : Instr → Bool
  | .init _ _ _ par _ baud => parLegal par && Config.baudSet baud
  | .initNull _ => true
  | .clku => true
  | .clkp => true
  | .barr => true
  | .dis => true
  | .wibrd => true
  | .wfbrd => true
  | .wlcrh => true
  | .pins => true
  | .ena => true

end Sys2Proof
end

