-- ==== Sys2Proof/Decode.lean ====
section
/-! DEFINITION. Decoding and encoding: the command word (spec/30_encoding.md R61 to R67, R76), the micro-op code (R68),
and the byte-bus mapping (spec/20_memory.md R43). -/

namespace Sys2Proof

/-- The bit of INST in a command word (R65). -/
def Inst.bit : Inst → BitVec 1
  | .u1 => 0
  | .u2 => 1

/-- The number of an instance, 0 or 1 (R65). -/
def Inst.index (i : Inst) : Nat := i.bit.toNat

/-- Reads INST (R65). -/
def Inst.ofBit (b : BitVec 1) : Inst := if b = 1 then .u2 else .u1

/-- The bit of HSE (R64). -/
def Sampling.bit : Sampling → BitVec 1
  | .std => 0
  | .hs => 1

/-- Reads HSE (R64). -/
def Sampling.ofBit (b : BitVec 1) : Sampling := if b = 1 then .hs else .std

/-- The bit of STP2 (R64). -/
def StopBits.bit : StopBits → BitVec 1
  | .one => 0
  | .two => 1

/-- Reads STP2 (R64). -/
def StopBits.ofBit (b : BitVec 1) : StopBits := if b = 1 then .two else .one

/-- The code of a parity setting in PAR and in W_PAR (R63, R10). -/
def Parity.code : Parity → BitVec 2
  | .disabled => 0
  | .odd => 1
  | .even => 2

/-- Reads PAR; the reserved code 3 names no setting (R63). -/
def Parity.ofCode (p : BitVec 2) : Option Parity :=
  if p = 0 then some .disabled else if p = 1 then some .odd else if p = 2 then some .even else none

/-- What is decoded: a command word on the command port, or the micro-op code in STEP (R60). -/
inductive Code where
  | cmd (w : CmdWord)
  | ustep (k : StepCode)
deriving DecidableEq, Repr

/-- Why a code is no instruction. -/
inductive Reject where
  /-- OP is not 0x1: illegal, BadOpcode (R71, R76 (1)). -/
  | badOpcode (w : CmdWord)
  /-- STEP codes 9 to 13, which STEP never holds (R71). -/
  | reservedStep (k : StepCode)
  /-- 14 (FAULT) and 15 (IDLE) are values of STEP that name no micro-op (R68). -/
  | notMicroOp (k : StepCode)
deriving DecidableEq, Repr

/-- What decoding comes to: an instruction, or the reason why the code is none. -/
inductive Decoded where
  | ok (i : Instr)
  | rejected (r : Reject)
deriving DecidableEq, Repr

/-- OP, bits 31:28 (R61). -/
def opField (c : CmdWord) : BitVec 4 := c.extractLsb' 28 4

/-- CFG_VALID, bit 27 (R61). -/
def validField (c : CmdWord) : BitVec 1 := c.extractLsb' 27 1

/-- Decodes a command word, in the order of R76 (1) to (3). Step (4), the PAR and BAUD checks, is the meaning's (R116). -/
def decodeCmd (c : CmdWord) : Decoded :=
  if opField c ≠ 1 then .rejected (.badOpcode c)
  else if validField c = 0 then .ok (.initNull (c.extractLsb' 0 27))
  else .ok (.init (Inst.ofBit (c.extractLsb' 26 1)) (Sampling.ofBit (c.extractLsb' 25 1))
    (StopBits.ofBit (c.extractLsb' 24 1)) (c.extractLsb' 22 2) (c.extractLsb' 20 2) (c.extractLsb' 0 20))

/-- Decodes the micro-op code (R68). -/
def decodeUstep (k : StepCode) : Decoded :=
  match k.toNat with
  | 0 => .ok .clku
  | 1 => .ok .clkp
  | 2 => .ok .barr
  | 3 => .ok .dis
  | 4 => .ok .wibrd
  | 5 => .ok .wfbrd
  | 6 => .ok .wlcrh
  | 7 => .ok .pins
  | 8 => .ok .ena
  | 14 => .rejected (.notMicroOp k)
  | 15 => .rejected (.notMicroOp k)
  | _ => .rejected (.reservedStep k)

/-- Decoding, total: every command word and every micro-op code is an instruction or rejected by name. -/
def decode : Code → Decoded
  | .cmd w => decodeCmd w
  | .ustep k => decodeUstep k

/-- The command word of an INIT (R61): `0001 1 i h s pp ww b`. -/
def initWord (inst : Inst) (hse : Sampling) (stp2 : StopBits) (par wlen : BitVec 2) (baud : BitVec 20) : CmdWord :=
  (1 : BitVec 4) ++ (1 : BitVec 1) ++ inst.bit ++ hse.bit ++ stp2.bit ++ par ++ wlen ++ baud

/-- A command word of INIT.NULL (R61, R67): `0001 0` and the 27 ignored bits. -/
def nullWord (ignored : BitVec 27) : CmdWord := (1 : BitVec 4) ++ (0 : BitVec 1) ++ ignored

/-- The encoder, from R61 and R68. -/
def encode : Instr → Code
  | .init inst hse stp2 par wlen baud => .cmd (initWord inst hse stp2 par wlen baud)
  | .initNull ignored => .cmd (nullWord ignored)
  | .clku => .ustep 0
  | .clkp => .ustep 1
  | .barr => .ustep 2
  | .dis => .ustep 3
  | .wibrd => .ustep 4
  | .wfbrd => .ustep 5
  | .wlcrh => .ustep 6
  | .pins => .ustep 7
  | .ena => .ustep 8

/-- Byte k of a register or word on a byte-addressed bus, lowest address first: little-endian (R43); `obs` numbers the
observation. DESIGN CHOICE, safe: R43 does not say what the bits above the register's top bit carry (FBRD 6, CTL 10, CLKEN
and PINREQ 4 bits), and they are a free value here (log entry 17). -/
def busByte (obs : Nat) {n : Nat} (v : BitVec n) (k : Nat) : Byte :=
  if 8 * k + 8 ≤ n then v.extractLsb' (8 * k) 8
  else v.extractLsb' (8 * k) 8 ||| Config.busFill obs <<< (n - 8 * k)

/-- The four bytes of a command word on a byte-addressed bus, lowest address first (R43). They are full bytes, so the number
of the observation plays no part. -/
def cmdBytes (c : CmdWord) : List Byte := [busByte 0 c 0, busByte 0 c 1, busByte 0 c 2, busByte 0 c 3]

/-- The command word that four bytes on a byte-addressed bus carry (R43); any other number of bytes is no command word,
since every command is one 32-bit word (R73). -/
def cmdOfBytes : List Byte → Option CmdWord
  | [b0, b1, b2, b3] => some (b3 ++ b2 ++ b1 ++ b0)
  | _ => none

/-- The code that spec/opcode_table.json's bits stand for: a row of at most 8 bits is a USTEP row, any other a CMD row. -/
def tableCode (nbits w : Nat) : Option Code :=
  if nbits ≤ 8 then if w < 2 ^ 4 then some (.ustep (BitVec.ofNat 4 w)) else none
  else if w < 2 ^ 32 then some (.cmd (BitVec.ofNat 32 w)) else none

/-- The instruction this decoder reads from the bits of an opcode-table row. -/
def decodeTableWord (nbits w : Nat) : Option Instr :=
  match tableCode nbits w with
  | some c =>
    match decode c with
    | .ok i => some i
    | .rejected _ => none
  | none => none

end Sys2Proof
end

