-- ==== Sys2Proof/Machine/State.lean ====
section
/-! DEFINITION. The state of UCFG as plain data (spec/10_state.md), why a step can stop, and the state after reset (R31). -/

namespace Sys2Proof.Machine

/-- One thing for each of the two UARTs. -/
structure PerInst (α : Type) where
  /-- of INST 0 -/
  u1 : α
  /-- of INST 1 -/
  u2 : α
deriving DecidableEq, Repr

/-- The entry of one UART. -/
def PerInst.get {α : Type} (p : PerInst α) : Inst → α
  | .u1 => p.u1
  | .u2 => p.u2

/-- Replaces the entry of one UART. -/
def PerInst.set {α : Type} (p : PerInst α) (i : Inst) (a : α) : PerInst α :=
  match i with
  | .u1 => { p with u1 := a }
  | .u2 => { p with u2 := a }

/-- The six working registers x[0] to x[5] (R10): the Configuration Record of the INIT being executed. -/
structure WorkRegs where
  /-- x[0] W_BAUD, 20 bits -/
  baud : BitVec 20
  /-- x[1] W_WLEN, 2 bits: word length minus 5 -/
  wlen : BitVec 2
  /-- x[2] W_PAR, codes 0 to 2: the type LCGEN is defined on (R109; log entry 9) -/
  par : Parity
  /-- x[3] W_STP2, 1 bit -/
  stp2 : StopBits
  /-- x[4] W_HSE, 1 bit -/
  hse : Sampling
  /-- x[5] W_INST, 1 bit -/
  inst : Inst
deriving DecidableEq, Repr

/-- The four configuration registers of one UART (R17 to R20). `none` is the spec's own state "holds no value" (R28),
which the enable guard reads (R49); log entry 4. -/
structure Uart where
  /-- IBRD, the integer divisor (R17) -/
  ibrd : Option (BitVec 16)
  /-- FBRD, the fractional divisor in 1/64 (R18) -/
  fbrd : Option (BitVec 6)
  /-- LCRH, line control and FIFO enable (R19) -/
  lcrh : Option (BitVec 8)
  /-- CTL, UART control (R20) -/
  ctl : Option (BitVec 10)
deriving DecidableEq, Repr

/-- One performed register-bus transaction, an entry of TRACE (R27, R69). The data of a write has the register's width
and stands zero-extended to the 32 bits a transaction has at most (R60; log entry 14). -/
inductive Txn where
  /-- `Wr(rn, data)` -/
  | wr (rn : RegNum) (data : BitVec 32)
  /-- `Rd(rn)` -/
  | rd (rn : RegNum)
deriving DecidableEq, Repr

/-- The whole state: UCFG's own (R10 to R27), then the four fields that are the model's. -/
structure State where
  /-- the working registers (R10) -/
  work : WorkRegs
  /-- STEP, the program counter (R12) -/
  pc : StepCode
  /-- FCODE (R16) -/
  fcode : BitVec 4
  /-- CONFIGURED[i] (R15) -/
  configured : PerInst Bool
  /-- IBRD, FBRD, LCRH and CTL of each UART (R17 to R20) -/
  uart : PerInst Uart
  /-- CLKEN (R21): bits 0, 1 the UART clocks, bits 2, 3 the pin-block clocks -/
  clken : BitVec 4
  /-- STABLE, parallel to CLKEN (R26) -/
  stable : BitVec 4
  /-- TRACE, oldest first (R27) -/
  trace : List Txn
  /-- MODEL's own: the command words the host presents, one after the other; the head is on `cmd` now, with
  `cmd_valid` = 1, and is held until it is accepted (R115; log entry 1) -/
  hostCmds : List CmdWord
  /-- MODEL's own: whether the host asserts `rst` in this step (the head) and in each later one; past the end it does
  not (R180; log entry 1) -/
  hostRst : List Bool
  /-- MODEL's own: how many values of CLKSTAT have been drawn (R22; log entry 7) -/
  draws : Nat
  /-- MODEL's own: the pin requests the collaborator has taken, oldest first; nothing takes one back (R182; log entry 10) -/
  pinLog : List (BitVec 4)
deriving DecidableEq, Repr

/-- Why the machine stops. -/
inductive Fault where
  /-- Raised by `step` in STEP = 14 (FAULT) when the host asserts no reset now and has none to come: no step is enabled
  (R138). Carries FCODE. Safe: the model stops where UCFG stays as it is for ever. -/
  | inFault (fcode : BitVec 4)
deriving DecidableEq, Repr

/-- Why there is no meaning. -/
inductive Refusal where
  /-- Raised by an arm of `exec` whose instruction has no meaning yet; no arm does. Safe. -/
  | notModelled (mnemonic : String)
  /-- Raised by `step` when STEP holds 9 to 13, which it never does (R12; U12 says refuse). Safe. -/
  | reservedStep (k : StepCode)
  /-- Raised by `memRead` and `memWrite` for a reserved register number, a reserved direction or a width that is not the
  register's: no defined meaning (R42 says refuse, R46). No micro-op makes such a transaction. Safe. -/
  | reservedAccess (rn : RegNum)
  /-- Raised by WIBRD and WFBRD when no write guard fails and W_BAUD = 0: DIVGEN has no value there and a model must
  refuse to evaluate it (R86). No run from reset comes there. Safe. -/
  | divgenNoValue
deriving DecidableEq, Repr

/-- The four registers of a UART after reset: without value (R31). -/
def Uart.reset : Uart := { ibrd := none, fbrd := none, lcrh := none, ctl := none }

/-- The working registers after reset. R31 gives no value; zeros are a DESIGN CHOICE, unsafe (log entry 3). -/
def WorkRegs.reset : WorkRegs :=
  { baud := 0, wlen := 0, par := .disabled, stp2 := .one, hse := .std, inst := .u1 }

/-- The state right after reset (R31), with a host that presents nothing and asserts nothing. -/
def State.reset : State :=
  { work := WorkRegs.reset
    pc := 15
    fcode := 0
    configured := { u1 := false, u2 := false }
    uart := { u1 := Uart.reset, u2 := Uart.reset }
    clken := 0
    stable := 0
    trace := []
    hostCmds := []
    hostRst := []
    draws := 0
    pinLog := [] }

end Sys2Proof.Machine
end

