-- ==== Sys2Proof/Machine/Operands.lean ====
section
/-! DEFINITION. Operands: the register map (spec/20_memory.md R41), the working registers by index (spec/00_scope.md R7)
and the values the micro-ops write (spec/30_encoding.md R68, R70). -/

namespace Sys2Proof.Machine

/-- The registers of the register-number space (R41). -/
inductive Reg where
  | ibrd (i : Inst)
  | fbrd (i : Inst)
  | lcrh (i : Inst)
  | ctl (i : Inst)
  | clken
  | clkstat
  | status
  | pinreq
deriving DecidableEq, Repr

/-- How the sequencer may access a register (R41, column "access by the sequencer"). -/
inductive RegAccess where
  | write
  | read
  | none
deriving DecidableEq, Repr

/-- The register number of register `k` of a UART: `8*i + k` (R17 to R20). -/
def uartRn (i : Inst) (k : Nat) : RegNum := BitVec.ofNat 5 (8 * i.index + k)

/-- A register's number (R41). -/
def Reg.number : Reg → RegNum
  | .ibrd i => uartRn i 0
  | .fbrd i => uartRn i 1
  | .lcrh i => uartRn i 2
  | .ctl i => uartRn i 3
  | .clken => 0x10
  | .clkstat => 0x11
  | .status => 0x12
  | .pinreq => 0x13

/-- The register a number selects: with `rn[4] = 0` a UART register, `rn[3]` the instance and `rn[2:0]` the register;
with `rn[4] = 1` a global one; `none` for the reserved numbers (R41, R42). -/
def Reg.ofNumber (rn : RegNum) : Option Reg :=
  if rn.getLsbD 4 then
    match (rn.extractLsb' 0 4).toNat with
    | 0 => some .clken
    | 1 => some .clkstat
    | 2 => some .status
    | 3 => some .pinreq
    | _ => none
  else
    match (rn.extractLsb' 0 3).toNat with
    | 0 => some (.ibrd (Inst.ofBit (rn.extractLsb' 3 1)))
    | 1 => some (.fbrd (Inst.ofBit (rn.extractLsb' 3 1)))
    | 2 => some (.lcrh (Inst.ofBit (rn.extractLsb' 3 1)))
    | 3 => some (.ctl (Inst.ofBit (rn.extractLsb' 3 1)))
    | _ => none

/-- A register's width in bits (R41). -/
def Reg.width : Reg → Nat
  | .ibrd _ => 16
  | .fbrd _ => 6
  | .lcrh _ => 8
  | .ctl _ => 10
  | .clken => 4
  | .clkstat => 32
  | .status => 8
  | .pinreq => 4

/-- A register's access by the sequencer (R41). -/
def Reg.access : Reg → RegAccess
  | .ibrd _ => .write
  | .fbrd _ => .write
  | .lcrh _ => .write
  | .ctl _ => .write
  | .clken => .write
  | .clkstat => .read
  | .status => .none
  | .pinreq => .write

/-- Working register x[k] as the unsigned number it holds (R7, R10). -/
def readX (k : Fin 6) (s : State) : Nat :=
  match k with
  | 0 => s.work.baud.toNat
  | 1 => s.work.wlen.toNat
  | 2 => s.work.par.code.toNat
  | 3 => s.work.stp2.bit.toNat
  | 4 => s.work.hse.bit.toNat
  | 5 => s.work.inst.bit.toNat

/-- The CLKEN bit of an instance's UART clock, UCLK[i] (R21). -/
def uclkBit (i : Inst) : Nat := i.index

/-- The CLKEN bit of an instance's pin-block clock, PCLK[i] (R21). -/
def pclkBit (i : Inst) : Nat := 2 + i.index

/-- What CLKU writes, `1 << i` (R121). -/
def uclkMask (i : Inst) : BitVec 4 := 1 <<< i.index

/-- What CLKP writes, `4 << i` (R122). -/
def pclkMask (i : Inst) : BitVec 4 := 4 <<< i.index

/-- What DIS writes, `W_HSE << 5` (R124): UARTEN, TXE and RXE 0, HSE the sampling mode. -/
def ctlOff (h : Sampling) : BitVec 10 := h.bit.setWidth 10 <<< 5

/-- What ENA writes, `0x301 | (W_HSE << 5)` (R129): UARTEN, TXE and RXE 1, HSE the sampling mode. -/
def ctlOn (h : Sampling) : BitVec 10 := 0x301 ||| (h.bit.setWidth 10 <<< 5)

/-- CTL.UARTEN, bit 0 (R20). -/
def uarten (c : BitVec 10) : Bool := c.getLsbD 0

/-- CTL.HSE, bit 5 (R20). -/
def ctlHse (c : BitVec 10) : Bool := c.getLsbD 5

/-- CTL.TXE, bit 8 (R20). -/
def txe (c : BitVec 10) : Bool := c.getLsbD 8

/-- CTL.RXE, bit 9 (R20). -/
def rxe (c : BitVec 10) : Bool := c.getLsbD 9

/-- What PINS writes, `0xE | i` (R70, R128). -/
def pinRequest (i : Inst) : BitVec 4 := 0xE ||| i.bit.setWidth 4

/-- A transaction's register number (R69). -/
def Txn.rn : Txn → RegNum
  | .wr rn _ => rn
  | .rd rn => rn

/-- A TRACE entry is a transaction R41 allows: a read of the readable register, or a write of a writable one whose data
fits the register's width (R45, R69). -/
def Txn.wf : Txn → Bool
  | .rd rn =>
    match Reg.ofNumber rn with
    | some r => r.access == .read
    | none => false
  | .wr rn data =>
    match Reg.ofNumber rn with
    | some r => r.access == .write && decide (data.toNat < 2 ^ r.width)
    | none => false

/-- The width of the data of a write: the target register's (R69); 0 for a number that selects no register. -/
def dataWidth (rn : RegNum) : Nat :=
  match Reg.ofNumber rn with
  | some r => r.width
  | none => 0

/-- A transaction in the format BUS: `we`, the register number, and for a write the data in the register's width (R69). -/
def Txn.busBits : Txn → List Bool
  | .wr rn data => true :: (bitsMsb rn ++ bitsMsb (data.setWidth (dataWidth rn)))
  | .rd rn => false :: bitsMsb rn
where
  /-- the bits of a word, most significant first -/
  bitsMsb {n : Nat} (v : BitVec n) : List Bool := (List.range n).map fun k => v.getMsbD k

end Sys2Proof.Machine
end

