-- ==== Sys2Proof/Machine/Flags.lean ====
section
/-! DEFINITION. Flags: BUSY, FAULT and cmd_ready (spec/10_state.md R14), the STATUS view (R23), and the causes of faults
with their codes (spec/60_exceptions.md R150). -/

namespace Sys2Proof.Machine

/-- BUSY: a micro-op is next (R14). -/
def busy (s : State) : Bool := decide (s.pc.toNat ≤ 8)

/-- FAULT: a fault was taken (R14). -/
def inFault (s : State) : Bool := s.pc == 14

/-- cmd_ready: STEP is IDLE (R14, R115). -/
def cmdReady (s : State) : Bool := s.pc == 15

/-- A flag as one bit. -/
def flagBit (b : Bool) : BitVec 1 := if b then 1 else 0

/-- The STATUS view (R23): bits 7:4 FCODE, 3 CONFIGURED[1], 2 CONFIGURED[0], 1 FAULT, 0 BUSY. -/
def status (s : State) : BitVec 8 :=
  s.fcode ++ flagBit (s.configured.get .u2) ++ flagBit (s.configured.get .u1) ++ flagBit (inFault s) ++ flagBit (busy s)

/-- The faults UCFG takes, with the information R150 names beside each; only the code is stored. -/
inductive Cause where
  /-- OP is not 0x1 (R151) -/
  | badOpcode (c : CmdWord)
  /-- PAR = 3 (R152) -/
  | badParity (c : CmdWord)
  /-- BAUD not in BAUD_SET (R153) -/
  | badBaud (c : CmdWord)
  /-- the UART's clock is off or not stable (R154) -/
  | clockOff (rn : RegNum)
  /-- CTL holds no value or UARTEN = 1 (R155) -/
  | writeWhileEnabled (rn : RegNum)
  /-- the pin block's clock is off or not stable (R156) -/
  | pinClockOff (v : BitVec 4)
deriving DecidableEq, Repr

/-- The code FCODE takes (R150). -/
def Cause.fcode : Cause → BitVec 4
  | .badOpcode _ => 1
  | .badParity _ => 2
  | .badBaud _ => 3
  | .clockOff _ => 4
  | .writeWhileEnabled _ => 5
  | .pinClockOff _ => 6

end Sys2Proof.Machine
end

