-- ==== Sys2Proof/Machine/Ops.lean ====
section
/-! DEFINITION. The operations every step is made of: taking a fault (spec/60_exceptions.md R158), reset
(spec/70_reset_and_hazards.md R180), the write guards (spec/20_memory.md R48 to R50), and the two register-bus primitives
MemRead and MemWrite (R44, R45). -/

namespace Sys2Proof.Machine

/-- Taking a fault, `raise F(info)` (R158): FCODE takes the code and STEP becomes 14; nothing else changes. -/
def raise (f : Cause) (s : State) : State := { s with fcode := f.fcode, pc := 14 }

/-- One entry of the reset schedule passes: one step was taken. -/
def tick (s : State) : State := { s with hostRst := s.hostRst.tail }

/-- The accepting step consumes the word on the command port (R115); one entry of the reset schedule passes. -/
def takeWord (s : State) : State := { tick s with hostCmds := s.hostCmds.tail }

/-- The reset step (R180): every piece of UCFG's state takes its value of R31. It is also the only return from a fault
(R159). A presented word is not accepted (R180), and what is outside UCFG stays: the host's words, the draws made, the
pin requests already taken (R182). -/
def resetStep (s : State) : State :=
  { State.reset with hostCmds := s.hostCmds, hostRst := s.hostRst.tail, draws := s.draws, pinLog := s.pinLog }

/-- STEP takes a value (R13). -/
def setPc (k : StepCode) (s : State) : State := { s with pc := k }

/-- The completion of ENA (R130): CONFIGURED[W_INST] becomes 1 and STEP becomes IDLE. -/
def complete (s : State) : State := { s with configured := s.configured.set s.work.inst true, pc := 15 }

/-- Replaces the four registers of one UART by a function of them. -/
def updUart (i : Inst) (f : Uart → Uart) (s : State) : State := { s with uart := s.uart.set i (f (s.uart.get i)) }

/-- A write of `v` to CLKEN is write-one-to-set, and a bit that was 0 clears its STABLE bit (R51 (b)). -/
def setClken (v : BitVec 4) (s : State) : State :=
  { s with clken := s.clken ||| v, stable := s.stable &&& ~~~(v &&& ~~~s.clken) }

/-- The barrier (R55): STABLE[b] becomes 1 for every b with CLKEN[b] = 1. -/
def barrier (s : State) : State := { s with stable := s.stable ||| s.clken }

/-- A pin request goes out to the collaborator, which takes it in the step it is made (R128; log entry 10). -/
def requestPins (v : BitVec 4) (s : State) : State := { s with pinLog := s.pinLog ++ [v] }

/-- Appends one performed transaction to TRACE (R27). -/
def addTxn (t : Txn) (s : State) : State := { s with trace := s.trace ++ [t] }

/-- The clock guard holds: UCLK[i] = 1 and STABLE[i] = 1 (R48). -/
def clockOk (i : Inst) (s : State) : Bool := s.clken.getLsbD (uclkBit i) && s.stable.getLsbD (uclkBit i)

/-- The enable guard holds: CTL[i] is defined and its UARTEN is 0 (R49). -/
def uartOff (i : Inst) (s : State) : Bool :=
  match (s.uart.get i).ctl with
  | some c => !uarten c
  | none => false

/-- The pin-clock guard holds: PCLK[i] = 1 and STABLE[2 + i] = 1 (R50). -/
def pinClockOk (i : Inst) (s : State) : Bool := s.clken.getLsbD (pclkBit i) && s.stable.getLsbD (pclkBit i)

/-- The guard of IBRD, FBRD and LCRH: the clock guard first, then the enable guard (R48, R49, R157). -/
def configGuard (i : Inst) (rn : RegNum) (s : State) : Option Cause :=
  if clockOk i s then if uartOff i s then none else some (.writeWhileEnabled rn) else some (.clockOff rn)

/-- The guard of CTL: the clock guard alone (R48, R49). -/
def ctlGuard (i : Inst) (rn : RegNum) (s : State) : Option Cause :=
  if clockOk i s then none else some (.clockOff rn)

/-- The guard of PINREQ, for the instance in bit 0 of the value (R50). -/
def pinGuard (v : BitVec 4) (s : State) : Option Cause :=
  if pinClockOk (Inst.ofBit (v.extractLsb' 0 1)) s then none else some (.pinClockOff v)

/-- The fault a write of `v` to a register raises, if a guard fails (R45 (1)). CLKEN has no guard (R50). -/
def writeGuard (r : Reg) {n : Nat} (v : BitVec n) (s : State) : Option Cause :=
  match r with
  | .ibrd i => configGuard i r.number s
  | .fbrd i => configGuard i r.number s
  | .lcrh i => configGuard i r.number s
  | .ctl i => ctlGuard i r.number s
  | .clken => none
  | .clkstat => none
  | .status => none
  | .pinreq => pinGuard (v.setWidth 4) s

/-- Performs a write (R45 (2)): the whole register takes the value (R47), CLKEN is write-one-to-set, PINREQ is a request.
The registers no write reaches are unchanged; `memWrite` refuses them before. -/
def store (r : Reg) {n : Nat} (v : BitVec n) (s : State) : State :=
  match r with
  | .ibrd i => updUart i (fun u => { u with ibrd := some (v.setWidth 16) }) s
  | .fbrd i => updUart i (fun u => { u with fbrd := some (v.setWidth 6) }) s
  | .lcrh i => updUart i (fun u => { u with lcrh := some (v.setWidth 8) }) s
  | .ctl i => updUart i (fun u => { u with ctl := some (v.setWidth 10) }) s
  | .clken => setClken (v.setWidth 4) s
  | .clkstat => s
  | .status => s
  | .pinreq => requestPins (v.setWidth 4) s

/-- What a register-bus transaction comes to. -/
inductive Access (α : Type) where
  /-- performed -/
  | done (a : α)
  /-- a guard failed: nothing was done, the fault is to be taken (R45 (1)) -/
  | raised (f : Cause)
  /-- the spec gives the transaction no meaning (R42) -/
  | refused (r : Refusal)
deriving DecidableEq, Repr

/-- A write that stands behind a guard (R45): its fault if the guard fails, else the state `t` after the write. -/
def guarded (g : Option Cause) (t : State) : Access State :=
  match g with
  | some f => .raised f
  | none => .done t

/-- `MemRead(rn, n)` (R44): only CLKSTAT with n = 32. It returns a draw, acts as the barrier (R55), and appends
`Rd(rn)` to TRACE; it raises no fault. -/
def memRead (rn : RegNum) (n : Nat) (s : State) : Access (BitVec n × State) :=
  match Reg.ofNumber rn with
  | none => .refused (.reservedAccess rn)
  | some r =>
    if r.access = .read ∧ n = r.width then
      .done ((Config.clkstat s.draws).setWidth n, addTxn (.rd rn) { barrier s with draws := s.draws + 1 })
    else .refused (.reservedAccess rn)

/-- `MemWrite(rn, n, v)` (R45): the guard, then the write, then the TRACE entry. -/
def memWrite (rn : RegNum) (n : Nat) (v : BitVec n) (s : State) : Access State :=
  match Reg.ofNumber rn with
  | none => .refused (.reservedAccess rn)
  | some r =>
    if r.access = .write ∧ n = r.width then
      guarded (writeGuard r v s) (addTxn (.wr rn (v.setWidth 32)) (store r v s))
    else .refused (.reservedAccess rn)

/-- What a state goes on to: an outcome of a step. -/
abbrev Result := Host.Outcome State Fault Refusal

/-- How a micro-op ends (R120): after a performed transaction the state moves on by `after`; a raised fault is taken
instead, from the state `s` before the micro-op. -/
def conclude (after : State → State) (s : State) (a : Access State) : Result :=
  match a with
  | .done t => .next (after t)
  | .raised f => .next (raise f s)
  | .refused r => .refused r

/-- A micro-op that makes one write and then moves on by `after` (R120). -/
def microWrite (rn : RegNum) (n : Nat) (v : BitVec n) (after : State → State) (s : State) : Result :=
  conclude after s (memWrite rn n v s)

/-- A divisor write for which DIVGEN has no value: a guard that fails is a fault whatever the value, and is taken; else
there is nothing to write and the model refuses (R86; log entry 8). -/
def noDivisor (r : Reg) (s : State) : Result :=
  match writeGuard r (0 : BitVec 16) s with
  | some f => .next (raise f s)
  | none => .refused .divgenNoValue

end Sys2Proof.Machine
end

