-- ==== Sys2Proof/Machine/Clocks.lean ====
section
/-! DEFINITION. The meanings of the micro-ops on the clocks: CLKU, CLKP and the barrier BARR (spec/42_initseq.md R121 to
R123). -/

namespace Sys2Proof.Machine

/-- CLKU (R121): `MemWrite(0x10, 4, 1 << i); pc <- 1`. -/
def execClku (s : State) : Result := microWrite 0x10 4 (uclkMask s.work.inst) (setPc 1) s

/-- CLKP (R122): `MemWrite(0x10, 4, 4 << i); pc <- 2`. -/
def execClkp (s : State) : Result := microWrite 0x10 4 (pclkMask s.work.inst) (setPc 2) s

/-- BARR (R123): `t = MemRead(0x11, 32); discard t; pc <- 3`. -/
def execBarr (s : State) : Result :=
  match memRead 0x11 32 s with
  | .done (_, t) => .next (setPc 3 t)
  | .raised f => .next (raise f s)
  | .refused r => .refused r

end Sys2Proof.Machine
end

