-- ==== Sys2Proof/Machine/Init.lean ====
section
/-! DEFINITION. The meanings of the command INIT, valid, refused and null (spec/42_initseq.md R116 to R119). `step` takes the
word off the command port before it calls one of these. -/

namespace Sys2Proof.Machine

/-- Latch and start (R117). -/
def latch (w : WorkRegs) (s : State) : State :=
  { s with work := w, configured := s.configured.set w.inst false, pc := 0 }

/-- INIT for any value `inSet` of the parameter BAUD_SET: BadParity, then BadBaud, then latch and start (R116, R157). -/
def initWith (inSet : BitVec 20 → Bool) (inst : Inst) (hse : Sampling) (stp2 : StopBits) (par wlen : BitVec 2)
    (baud : BitVec 20) (s : State) : Result :=
  match Parity.ofCode par with
  | none => .next (raise (.badParity (initWord inst hse stp2 par wlen baud)) s)
  | some p =>
    if inSet baud then
      .next (latch { baud := baud, wlen := wlen, par := p, stp2 := stp2, hse := hse, inst := inst } s)
    else .next (raise (.badBaud (initWord inst hse stp2 par wlen baud)) s)

/-- INIT (R116, R117, R119). -/
def execInit (inst : Inst) (hse : Sampling) (stp2 : StopBits) (par wlen : BitVec 2) (baud : BitVec 20) (s : State) :
    Result :=
  initWith Config.baudSet inst hse stp2 par wlen baud s

/-- INIT, null: nothing happens, whatever bits 26:0 hold (R118). -/
def execInitNull (_ignored : BitVec 27) (s : State) : Result := .next s

end Sys2Proof.Machine
end

