-- ==== Sys2Proof/Machine/Divgen.lean ====
section
/-! DEFINITION. DIVGEN, the baud-rate divisor generator (spec/40_divgen.md). All arithmetic is exact, on Nat (R89). -/

namespace Sys2Proof.Machine

/-- The oversampling factor (R81). -/
def factor : Sampling → Nat
  | .std => 16
  | .hs => 8

/-- The denominator d (R82). -/
def denominator (baud : BitVec 20) (hse : Sampling) : Nat := factor hse * baud.toNat

/-- The truncated quotient q (R83). -/
def intPart (ref d : Nat) : Nat := ref / d

/-- The rounded fraction f in 1/64, from the remainder r (R83, R84). -/
def fracPart (ref d : Nat) : Nat := (ref % d * 64 + d / 2) / d

/-- The pair before it is narrowed: a fraction of 64 carries into the integer part (R85). -/
def divPair (ref d : Nat) : Nat × Nat :=
  if fracPart ref d = 64 then (intPart ref d + 1, 0) else (intPart ref d, fracPart ref d)

/-- DIVGEN (R85), for any value `ref` of the parameter REF_HZ. At baud 0 it has no value (R86). -/
def divgen (ref : Nat) (baud : BitVec 20) (hse : Sampling) : Option (BitVec 16 × BitVec 6) :=
  if baud = 0 then none
  else
    some (BitVec.ofNat 16 (divPair ref (denominator baud hse)).1, BitVec.ofNat 6 (divPair ref (denominator baud hse)).2)

end Sys2Proof.Machine
end

