-- ==== Sys2Proof/Machine/Lcgen.lean ====
section
/-! DEFINITION. LCGEN, the line-control and FIFO configurator (spec/41_lcgen.md). -/

namespace Sys2Proof.Machine

/-- PEN, 1 unless parity is disabled (R102). -/
def penBit (par : Parity) : BitVec 8 := if par = .disabled then 0 else 0x02

/-- EPS, 1 for even parity (R102). -/
def epsBit (par : Parity) : BitVec 8 := if par = .even then 0x04 else 0

/-- LCGEN (R104), built from a cleared value: WLEN in bits 6:5, FEN bit 4 always, STP2 bit 3, EPS bit 2, PEN bit 1,
bits 0 and 7 zero. Defined on the three-valued parity type, as R109 asks. -/
def lcgen (wlen : BitVec 2) (par : Parity) (stp2 : StopBits) : BitVec 8 :=
  (wlen.setWidth 8 <<< 5) ||| 0x10 ||| (stp2.bit.setWidth 8 <<< 3) ||| epsBit par ||| penBit par

end Sys2Proof.Machine
end

