-- ==== Sys2Proof/Machine/UartOps.lean ====
section
/-! DEFINITION. The meanings of the micro-ops on a UART's registers and its pins (spec/42_initseq.md R124 to R130). -/

namespace Sys2Proof.Machine

/-- DIS (R124): `MemWrite(8*i + 3, 10, W_HSE << 5); pc <- 4`. -/
def execDis (s : State) : Result := microWrite (uartRn s.work.inst 3) 10 (ctlOff s.work.hse) (setPc 4) s

/-- WIBRD (R125): `(ibrd, fbrd) = DIVGEN(W_BAUD, W_HSE); MemWrite(8*i + 0, 16, ibrd); pc <- 5`. -/
def execWibrd (s : State) : Result :=
  match divgen Config.refHz s.work.baud s.work.hse with
  | some (ibrd, _) => microWrite (uartRn s.work.inst 0) 16 ibrd (setPc 5) s
  | none => noDivisor (.ibrd s.work.inst) s

/-- WFBRD (R126): `(ibrd, fbrd) = DIVGEN(W_BAUD, W_HSE); MemWrite(8*i + 1, 6, fbrd); pc <- 6`. -/
def execWfbrd (s : State) : Result :=
  match divgen Config.refHz s.work.baud s.work.hse with
  | some (_, fbrd) => microWrite (uartRn s.work.inst 1) 6 fbrd (setPc 6) s
  | none => noDivisor (.fbrd s.work.inst) s

/-- WLCRH (R127): `MemWrite(8*i + 2, 8, LCGEN(W_WLEN, W_PAR, W_STP2)); pc <- 7`. -/
def execWlcrh (s : State) : Result :=
  microWrite (uartRn s.work.inst 2) 8 (lcgen s.work.wlen s.work.par s.work.stp2) (setPc 7) s

/-- PINS (R128): `MemWrite(0x13, 4, 0xE | i); pc <- 8`. -/
def execPins (s : State) : Result := microWrite 0x13 4 (pinRequest s.work.inst) (setPc 8) s

/-- ENA (R129, R130): `MemWrite(8*i + 3, 10, 0x301 | (W_HSE << 5));` then the completion. -/
def execEna (s : State) : Result := microWrite (uartRn s.work.inst 3) 10 (ctlOn s.work.hse) complete s

end Sys2Proof.Machine
end

