-- ==== Sys2Proof/Machine/Dispatch.lean ====
section
/-! DEFINITION. One arm for each instruction. -/

namespace Sys2Proof.Machine

def exec (i : Instr) (s : State) : Host.Outcome State Fault Refusal :=
  match i with
  | .init inst hse stp2 par wlen baud => Sys2Proof.Machine.execInit inst hse stp2 par wlen baud s
  | .initNull ignored => Sys2Proof.Machine.execInitNull ignored s
  | .clku => Sys2Proof.Machine.execClku s
  | .clkp => Sys2Proof.Machine.execClkp s
  | .barr => Sys2Proof.Machine.execBarr s
  | .dis => Sys2Proof.Machine.execDis s
  | .wibrd => Sys2Proof.Machine.execWibrd s
  | .wfbrd => Sys2Proof.Machine.execWfbrd s
  | .wlcrh => Sys2Proof.Machine.execWlcrh s
  | .pins => Sys2Proof.Machine.execPins s
  | .ena => Sys2Proof.Machine.execEna s

end Sys2Proof.Machine
end

