-- ==== Sys2Proof/Machine/Fetch.lean ====
section
/-! DEFINITION. Which step is enabled (spec/42_initseq.md R115, R120, R138; spec/70_reset_and_hazards.md R180), and how a
word or a micro-op code is put where the next step takes it. -/

namespace Sys2Proof.Machine

/-- The step that is enabled in a state. -/
inductive Move where
  /-- `rst` is asserted: the step `reset` (R180) -/
  | reset
  /-- the step `accept` of the word on `cmd` (R115) -/
  | accept (c : CmdWord)
  /-- the step `ustep` of the code in STEP (R120) -/
  | ustep (k : StepCode)
  /-- no step of UCFG is enabled now: IDLE with no word presented, or FAULT with a reset still to come -/
  | wait
  /-- FAULT, with no reset to come (R138) -/
  | stuck
deriving DecidableEq, Repr

/-- `rst` in this step (R30). -/
def rstNow (s : State) : Bool := s.hostRst.headD false

/-- The enabled step: reset before anything else (R157); in IDLE the accept of a presented word; in FAULT nothing but
reset; else the micro-op. -/
def nextMove (s : State) : Move :=
  if rstNow s then .reset
  else if s.pc = 15 then
    match s.hostCmds with
    | c :: _ => .accept c
    | [] => .wait
  else if s.pc = 14 then if s.hostRst.any id then .wait else .stuck
  else .ustep s.pc

/-- Puts an instruction where the next step takes it: a command word in front of the words the host presents, with STEP
in IDLE; a micro-op code in STEP. `rst` is not asserted in that step. The host's later moves stay (log entry 12). -/
def placeCode (c : Code) (s : State) : State :=
  match c with
  | .cmd w => { s with pc := 15, hostCmds := w :: s.hostCmds, hostRst := noRstNow s.hostRst }
  | .ustep k => { s with pc := k, hostRst := noRstNow s.hostRst }
where
  /-- the schedule with no reset in the coming step -/
  noRstNow : List Bool → List Bool
    | [] => []
    | _ :: later => false :: later

/-- Puts the bits of an opcode-table row where the next step takes them. -/
def placeWord (s : State) (nbits w : Nat) : State :=
  match tableCode nbits w with
  | some c => placeCode c s
  | none => s

end Sys2Proof.Machine
end

