-- ==== Sys2Proof/Machine/Step.lean ====
section
/-! DEFINITION. One step of the machine (spec/00_scope.md R8). -/

namespace Sys2Proof.Machine

/-- One step: reset, accept or ustep, whichever is enabled; if none is, the machine waits, or in FAULT stops. A word the
decoder rejects is taken off the port and raises BadOpcode (R116, R119). -/
def step (s : State) : Host.Outcome State Fault Refusal :=
  match nextMove s with
  | .reset => .next (resetStep s)
  | .accept c =>
    match decodeCmd c with
    | .ok i => exec i (takeWord s)
    | .rejected _ => .next (raise (.badOpcode c) (takeWord s))
  | .ustep k =>
    match decodeUstep k with
    | .ok i => exec i (tick s)
    | .rejected _ => .refused (.reservedStep k)
  | .wait => .next (tick s)
  | .stuck => .fault (.inFault s.fcode)

/-- The state whose next step fetches and runs the instruction with these opcode-table bits. -/
def State.withFetchWord (s : State) (nbits w : Nat) : State := placeWord s nbits w

end Sys2Proof.Machine
end

