-- ==== Sys2Proof/Machine/Wires.lean ====
section
/-! DEFINITION. The ports of UCFG as functions of its state (spec/10_state.md R30). -/

namespace Sys2Proof.Machine

/-- cmd_valid: the host presents a word (R115). -/
def cmdValid (s : State) : Bool := !s.hostCmds.isEmpty

/-- The wire of a register: its value, or an unspecified one if it holds none; `obs` numbers the observation (R28). -/
def regWire {n : Nat} (rn : RegNum) (v : Option (BitVec n)) (obs : Nat) : BitVec n :=
  match v with
  | some x => x
  | none => (Config.undefWire rn obs).setWidth n

/-- ibrd_o[i] (R17). -/
def ibrdWire (i : Inst) (obs : Nat) (s : State) : BitVec 16 := regWire (uartRn i 0) (s.uart.get i).ibrd obs

/-- fbrd_o[i] (R18). -/
def fbrdWire (i : Inst) (obs : Nat) (s : State) : BitVec 6 := regWire (uartRn i 1) (s.uart.get i).fbrd obs

/-- lcrh_o[i] (R19). -/
def lcrhWire (i : Inst) (obs : Nat) (s : State) : BitVec 8 := regWire (uartRn i 2) (s.uart.get i).lcrh obs

/-- ctl_o[i] (R20). -/
def ctlWire (i : Inst) (obs : Nat) (s : State) : BitVec 10 := regWire (uartRn i 3) (s.uart.get i).ctl obs

/-- uclk_en[1:0] (R21). -/
def uclkEn (s : State) : BitVec 2 := s.clken.extractLsb' 0 2

/-- pclk_en[1:0] (R21). -/
def pclkEn (s : State) : BitVec 2 := s.clken.extractLsb' 2 2

/-- configured[1:0] (R15). -/
def configuredWire (s : State) : BitVec 2 := flagBit (s.configured.get .u2) ++ flagBit (s.configured.get .u1)

/-- pinreq_valid and pinreq_data in the step from `s` to `t`: `some` data exactly when that step makes a pin request, so
that it shows for one step (R24). -/
def pinreqWire (s t : State) : Option (BitVec 4) := (t.pinLog.drop s.pinLog.length).head?

end Sys2Proof.Machine
end

