-- ==== Sys2Proof/Safety.lean ====
section
/-! DEFINITION. What counts as a safe run: the invariant of the states UCFG comes to from reset. -/

namespace Sys2Proof.Machine

/-- What a micro-op may rely on about the INIT in progress: the part of the invariant for STEP 0 to 8, from the order of
spec/42_initseq.md R131 and the effects of R117 and R121 to R128. -/
structure Progress (s : State) : Prop where
  /-- the latched baud rate passed acceptance (R117) -/
  baud_in_set : Config.baudSet s.work.baud = true
  /-- the instance is not Configured meanwhile (R15) -/
  not_configured : s.configured.get s.work.inst = false
  /-- after CLKU the UART clock is on (R121) -/
  uart_clock : 1 ≤ s.pc.toNat → s.clken.getLsbD (uclkBit s.work.inst) = true
  /-- after CLKP the pin-block clock is on (R122) -/
  pin_clock : 2 ≤ s.pc.toNat → s.clken.getLsbD (pclkBit s.work.inst) = true
  /-- after BARR both are stable (R123) -/
  both_stable : 3 ≤ s.pc.toNat → s.stable.getLsbD (uclkBit s.work.inst) = true ∧
    s.stable.getLsbD (pclkBit s.work.inst) = true
  /-- after DIS the UART is disabled, in the record's sampling mode (R124) -/
  disabled : 4 ≤ s.pc.toNat → (s.uart.get s.work.inst).ctl = some (ctlOff s.work.hse)
  /-- after WIBRD and WFBRD the divisors are DIVGEN's (R125, R126) -/
  ibrd_written : 5 ≤ s.pc.toNat →
    (s.uart.get s.work.inst).ibrd = (divgen Config.refHz s.work.baud s.work.hse).map Prod.fst
  fbrd_written : 6 ≤ s.pc.toNat →
    (s.uart.get s.work.inst).fbrd = (divgen Config.refHz s.work.baud s.work.hse).map Prod.snd
  /-- after WLCRH line control is LCGEN's (R127) -/
  lcrh_written : 7 ≤ s.pc.toNat →
    (s.uart.get s.work.inst).lcrh = some (lcgen s.work.wlen s.work.par s.work.stp2)

/-- A Configured UART is enabled with transmit and receive on, and all its registers hold a value (R129, R130). -/
structure Usable (u : Uart) : Prop where
  enabled : u.ctl = some (ctlOn .std) ∨ u.ctl = some (ctlOn .hs)
  ibrd_defined : u.ibrd.isSome = true
  fbrd_defined : u.fbrd.isSome = true
  lcrh_defined : u.lcrh.isSome = true

/-- The invariant of the states UCFG comes to from reset (spec/95_test_vectors.md part 4 (g) and (h); 10_state R12, R16). -/
structure Inv (s : State) : Prop where
  /-- STEP never holds 9 to 13 (R12) -/
  pc_legal : s.pc.toNat ≤ 8 ∨ s.pc = 14 ∨ s.pc = 15
  /-- a stable clock is on (part 4 (g)) -/
  stable_on : s.stable &&& ~~~s.clken = 0
  /-- FCODE is 0 outside FAULT (R16) -/
  fcode_clear : s.pc ≠ 14 → s.fcode = 0
  /-- in FAULT it is an acceptance fault's (part 4 (h)) -/
  fcode_fault : s.pc = 14 → s.fcode = 1 ∨ s.fcode = 2 ∨ s.fcode = 3
  /-- the INIT in progress, if one is -/
  progress : s.pc.toNat ≤ 8 → Progress s
  /-- a UART whose UARTEN is 1 is Configured, unless its own re-initialisation is in progress (part 4 (g)) -/
  enabled_configured : ∀ i c, (s.uart.get i).ctl = some c → uarten c = true →
    s.configured.get i = true ∨ (s.pc.toNat ≤ 8 ∧ s.work.inst = i)
  /-- a Configured UART is usable -/
  configured_usable : ∀ i, s.configured.get i = true → Usable (s.uart.get i)
  /-- every TRACE entry is a transaction the register map allows -/
  trace_wf : s.trace.all Txn.wf = true

end Sys2Proof.Machine
end

