-- ==== Sys2Proof/Certificates/Slice0/Obligations.lean ====
section
/-! DEFINITION. The statements about UCFG, each from the rules of spec/ that its docstring names. -/

section
open Sys2Proof Sys2Proof.Machine

/-! ### Encoding -/

/-- Decoding what was encoded gives the instruction back, for every instruction and every operand value, the ill-formed
ones included (30_encoding sections 1 to 3). -/
def Obligations.DecodeOfEncode : Prop := ∀ i : Instr, decode (encode i) = .ok i

/-- Each code has one meaning: what decodes to an instruction is that instruction's code (30_encoding sections 1 to 3, 7). -/
def Obligations.EncodeOfDecode : Prop := ∀ (c : Code) (i : Instr), decode c = .ok i → encode i = c

/-- The bit positions of the command word as powers of two; every OP but 1 is reserved; the codes of PAR (R61). -/
def Obligations.CommandWordLayout : Prop :=
  (∀ (inst : Inst) (hse : Sampling) (stp2 : StopBits) (par wlen : BitVec 2) (baud : BitVec 20),
    ∃ w : CmdWord, encode (.init inst hse stp2 par wlen baud) = .cmd w ∧
      w.toNat = 1 * 2 ^ 28 + 1 * 2 ^ 27 + (if inst = .u2 then 1 else 0) * 2 ^ 26 + (if hse = .hs then 1 else 0) * 2 ^ 25
        + (if stp2 = .two then 1 else 0) * 2 ^ 24 + par.toNat * 2 ^ 22 + wlen.toNat * 2 ^ 20 + baud.toNat) ∧
  (∀ ignored : BitVec 27, ∃ w : CmdWord, encode (.initNull ignored) = .cmd w ∧
      w.toNat = 1 * 2 ^ 28 + 0 * 2 ^ 27 + ignored.toNat) ∧
  (∀ c : CmdWord, c.toNat / 2 ^ 28 ≠ 1 → decode (.cmd c) = .rejected (.badOpcode c)) ∧
  (∀ (b : BitVec 2) (p : Parity), Parity.ofCode b = some p ↔
    (b.toNat = 0 ∧ p = .disabled) ∨ (b.toNat = 1 ∧ p = .odd) ∨ (b.toNat = 2 ∧ p = .even))

/-- A few words written out from the encodings (95_test_vectors V41, V46, V55, V58; R68). -/
def Obligations.SpecWordsDecode : Prop :=
  decode (.cmd 0x18302580) = .ok (.init .u1 .std .one 0 3 9600) ∧
  decode (.cmd 0x1D504B00) = .ok (.init .u2 .std .two 1 1 19200) ∧
  decode (.cmd 0x17FFFFFF) = .ok (.initNull 0x7FFFFFF) ∧
  decode (.cmd 0x00000000) = .rejected (.badOpcode 0) ∧
  decode (.ustep 0b0011) = .ok .dis ∧
  decode (.ustep 0b1000) = .ok .ena ∧
  decode (.ustep 0b1001) = .rejected (.reservedStep 9) ∧
  decode (.ustep 0b1110) = .rejected (.notMicroOp 14)

/-- A command word on a byte-addressed bus is little-endian: bit b of the word is bit b mod 8 of byte b / 8, and the four
bytes carry the word (20_memory section 2, R43). -/
def Obligations.CommandBytesLittleEndian : Prop :=
  ∀ c : CmdWord, cmdOfBytes (cmdBytes c) = some c ∧
    ∀ b < 32, ((cmdBytes c).getD (b / 8) 0).getLsbD (b % 8) = c.getLsbD b

/-! ### Steps -/

/-- A step runs the decoded instruction: a word presented in IDLE is taken off the command port, a micro-op is the one
STEP names; either way one entry of the reset schedule passes (R115, R120; the host's lists are the model's, log entry 1). -/
def Obligations.StepRunsDecoded : Prop :=
  (∀ (s : State) (c : CmdWord) (rest : List CmdWord) (i : Instr), rstNow s = false → s.pc = 15 →
    s.hostCmds = c :: rest → decode (.cmd c) = .ok i →
      step s = exec i { s with hostCmds := rest, hostRst := s.hostRst.tail }) ∧
  (∀ (s : State) (i : Instr), rstNow s = false → decode (.ustep s.pc) = .ok i →
      step s = exec i { s with hostRst := s.hostRst.tail })

/-- `accept`, by the bits of the word and in the order of its five arms (R116, R119, R151, R157; the host's lists are the
model's, log entry 1). -/
def Obligations.AcceptDispatch : Prop :=
  ∀ (s : State) (c : CmdWord) (rest : List CmdWord), rstNow s = false → s.pc = 15 → s.hostCmds = c :: rest →
    let s' := { s with hostCmds := rest, hostRst := s.hostRst.tail }
    (c.extractLsb' 28 4 ≠ 1 → step s = .next { s' with fcode := 1, pc := 14 }) ∧
    (c.extractLsb' 28 4 = 1 → c.extractLsb' 27 1 = 0 → step s = .next s') ∧
    (c.extractLsb' 28 4 = 1 → c.extractLsb' 27 1 = 1 → c.extractLsb' 22 2 = 3 →
      step s = .next { s' with fcode := 2, pc := 14 }) ∧
    (c.extractLsb' 28 4 = 1 → c.extractLsb' 27 1 = 1 → c.extractLsb' 22 2 ≠ 3 →
      Config.baudSet (c.extractLsb' 0 20) = false → step s = .next { s' with fcode := 3, pc := 14 }) ∧
    (c.extractLsb' 28 4 = 1 → c.extractLsb' 27 1 = 1 → c.extractLsb' 22 2 ≠ 3 →
      Config.baudSet (c.extractLsb' 0 20) = true →
      ∃ t : State, step s = .next t ∧ readX 0 t = (c.extractLsb' 0 20).toNat ∧ readX 1 t = (c.extractLsb' 20 2).toNat ∧
        readX 2 t = (c.extractLsb' 22 2).toNat ∧ readX 3 t = (c.extractLsb' 24 1).toNat ∧
        readX 4 t = (c.extractLsb' 25 1).toNat ∧ readX 5 t = (c.extractLsb' 26 1).toNat ∧
        (∀ j : Inst, t.configured.get j = if j.index = (c.extractLsb' 26 1).toNat then false else s.configured.get j) ∧
        t = { s' with work := t.work, configured := t.configured, pc := 0 })

/-- While BUSY or in FAULT a presented word is neither accepted nor dropped, and reset does not accept it (42_initseq
section 1; 70 section 1; log entry 1). An `accept` consumes exactly the one word. -/
def Obligations.PresentedWordWaits : Prop :=
  ∀ s t : State, step s = .next t →
    t.hostCmds = if rstNow s = false ∧ s.pc = 15 then s.hostCmds.tail else s.hostCmds

/-- Where reset leaves the machine, from every state, with priority over every other step, a sequence in progress included
(70 section 1, 10_state section 8, 60 section 3). The working registers, to which R31 gives no value, are not spoken of. -/
def Obligations.ResetStep : Prop :=
  ∀ s : State, rstNow s = true →
    ∃ t : State, step s = .next t ∧ t.pc = 15 ∧ t.fcode = 0 ∧ t.configured = ⟨false, false⟩ ∧
      (∀ i : Inst, t.uart.get i = ⟨none, none, none, none⟩) ∧ t.clken = 0 ∧ t.stable = 0 ∧ t.trace = [] ∧
      t.hostCmds = s.hostCmds ∧ t.pinLog = s.pinLog

/-- The state after reset, where R31 gives a value: IDLE, no fault, both UARTs Uninitialized and without register values,
all clocks off, STATUS 0x00 (10_state section 8). -/
def Obligations.ResetState : Prop :=
  State.reset.pc = 15 ∧ State.reset.fcode = 0 ∧ State.reset.configured = ⟨false, false⟩ ∧
    (∀ i : Inst, State.reset.uart.get i = ⟨none, none, none, none⟩) ∧ State.reset.clken = 0 ∧ State.reset.stable = 0 ∧
    State.reset.trace = [] ∧ status State.reset = 0x00 ∧ cmdReady State.reset = true

/-- STEP codes 9 to 13 are refused by name; in FAULT with no reset asserted nothing of UCFG changes, and when none is to
come the step is the fault `inFault` (93 U12; 42_initseq R138; the waiting and the fault are the model's choice, log entries
2 and 11). -/
def Obligations.NoStepEnabled : Prop :=
  (∀ s : State, rstNow s = false → 9 ≤ s.pc.toNat → s.pc.toNat ≤ 13 → step s = .refused (.reservedStep s.pc)) ∧
  (∀ s : State, rstNow s = false → s.pc = 14 →
    step s = if true ∈ s.hostRst then .next { s with hostRst := s.hostRst.tail } else .fault (.inFault s.fcode)) ∧
  (∀ s : State, rstNow s = false → s.pc = 15 → s.hostCmds = [] → step s = .next { s with hostRst := s.hostRst.tail })

/-! ### The command INIT -/

/-- A valid INIT latches the bits of its word into the six working registers, shows its instance as not Configured, and
starts the sequence; nothing else changes (R117). -/
def Obligations.InitLatches : Prop :=
  ∀ (inst : Inst) (hse : Sampling) (stp2 : StopBits) (par wlen : BitVec 2) (baud : BitVec 20) (s : State),
    par ≠ 3 → Config.baudSet baud = true →
      ∃ (c : CmdWord) (t : State), encode (.init inst hse stp2 par wlen baud) = .cmd c ∧
        exec (.init inst hse stp2 par wlen baud) s = .next t ∧
        readX 0 t = (c.extractLsb' 0 20).toNat ∧ readX 1 t = (c.extractLsb' 20 2).toNat ∧
        readX 2 t = (c.extractLsb' 22 2).toNat ∧ readX 3 t = (c.extractLsb' 24 1).toNat ∧
        readX 4 t = (c.extractLsb' 25 1).toNat ∧ readX 5 t = (c.extractLsb' 26 1).toNat ∧
        (∀ j : Inst, t.configured.get j = if j = inst then false else s.configured.get j) ∧ t.pc = 0 ∧
        t = { s with work := t.work, configured := t.configured, pc := t.pc }

/-- A null INIT changes nothing at all, whatever bits 26:0 hold; in a step the word is consumed and nothing else of UCFG
changes (42_initseq section 2; that the port is a list and resets a schedule is the model's, log entry 1). -/
def Obligations.InitNullNoop : Prop :=
  (∀ (ignored : BitVec 27) (s : State), exec (.initNull ignored) s = .next s) ∧
  (∀ (s : State) (ignored : BitVec 27) (c : CmdWord) (rest : List CmdWord), rstNow s = false → s.pc = 15 →
    s.hostCmds = c :: rest → encode (.initNull ignored) = .cmd c →
      step s = .next { s with hostCmds := rest, hostRst := s.hostRst.tail })

/-- An INIT with PAR = 3 takes BadParity, whatever its BAUD; one with a legal PAR and a BAUD outside BAUD_SET, 0 always
among them, takes BadBaud; nothing but FCODE and STEP changes (R152, R153). -/
def Obligations.InitRefuses : Prop :=
  (∀ (inst : Inst) (hse : Sampling) (stp2 : StopBits) (wlen : BitVec 2) (baud : BitVec 20) (s : State),
    exec (.init inst hse stp2 3 wlen baud) s = .next { s with fcode := 2, pc := 14 }) ∧
  (∀ (inst : Inst) (hse : Sampling) (stp2 : StopBits) (par wlen : BitVec 2) (baud : BitVec 20) (s : State),
    par ≠ 3 → (Config.baudSet baud = false ∨ baud = 0) →
      exec (.init inst hse stp2 par wlen baud) s = .next { s with fcode := 3, pc := 14 })

/-! ### The micro-ops. Each statement gives the next state with its frame, and the faults with nothing but FCODE and STEP. -/

/-- CLKU (R121). -/
def Obligations.ClkuRuns : Prop :=
  ∀ s : State, ∃ t : State, exec .clku s = .next t ∧
    (∀ b < 4, t.clken.getLsbD b = (s.clken.getLsbD b || b == s.work.inst.index)) ∧
    (∀ b < 4, t.stable.getLsbD b =
      if b = s.work.inst.index ∧ s.clken.getLsbD b = false then false else s.stable.getLsbD b) ∧
    t.trace = s.trace ++ [.wr 0x10 (if s.work.inst = .u1 then 1 else 2)] ∧ t.pc = 1 ∧
    t = { s with clken := t.clken, stable := t.stable, trace := t.trace, pc := t.pc }

/-- CLKP (R122). -/
def Obligations.ClkpRuns : Prop :=
  ∀ s : State, ∃ t : State, exec .clkp s = .next t ∧
    (∀ b < 4, t.clken.getLsbD b = (s.clken.getLsbD b || b == 2 + s.work.inst.index)) ∧
    (∀ b < 4, t.stable.getLsbD b =
      if b = 2 + s.work.inst.index ∧ s.clken.getLsbD b = false then false else s.stable.getLsbD b) ∧
    t.trace = s.trace ++ [.wr 0x10 (if s.work.inst = .u1 then 4 else 8)] ∧ t.pc = 2 ∧
    t = { s with clken := t.clken, stable := t.stable, trace := t.trace, pc := t.pc }

/-- BARR: every gate that is on becomes stable, whichever instance the INIT is for; the value read changes nothing
(R123, R55). The count of draws is the model's (log entry 7). -/
def Obligations.BarrRuns : Prop :=
  ∀ s : State, ∃ t : State, exec .barr s = .next t ∧
    (∀ b < 4, t.stable.getLsbD b = if s.clken.getLsbD b = true then true else s.stable.getLsbD b) ∧
    t.trace = s.trace ++ [.rd 0x11] ∧ t.pc = 3 ∧
    t = { s with stable := t.stable, trace := t.trace, pc := t.pc, draws := t.draws }

/-- DIS: CTL of the instance takes 0x000 or 0x020 whatever it held; ClockOff if its clock is off or not stable (R124). -/
def Obligations.DisRuns : Prop :=
  ∀ s : State,
    (s.clken.getLsbD s.work.inst.index = true → s.stable.getLsbD s.work.inst.index = true →
      ∃ t : State, exec .dis s = .next t ∧
        (∀ j : Inst, t.uart.get j =
          if j = s.work.inst then { s.uart.get j with ctl := some (if s.work.hse = .hs then 0x020 else 0x000) }
          else s.uart.get j) ∧
        t.trace = s.trace ++
          [.wr (BitVec.ofNat 5 (8 * s.work.inst.index + 3)) (if s.work.hse = .hs then 0x020 else 0x000)] ∧
        t.pc = 4 ∧ t = { s with uart := t.uart, trace := t.trace, pc := t.pc }) ∧
    (s.clken.getLsbD s.work.inst.index = false ∨ s.stable.getLsbD s.work.inst.index = false →
      exec .dis s = .next { s with fcode := 4, pc := 14 })

/-- WIBRD: IBRD of the instance takes DIVGEN's first component; ClockOff before WriteWhileEnabled (R125). W_BAUD = 0, where
DIVGEN has no value, is NoDivisor's. -/
def Obligations.WibrdRuns : Prop :=
  ∀ s : State, s.work.baud ≠ 0 →
    (s.clken.getLsbD s.work.inst.index = true → s.stable.getLsbD s.work.inst.index = true →
      ∀ c, (s.uart.get s.work.inst).ctl = some c → c.getLsbD 0 = false →
      ∃ p, divgen Config.refHz s.work.baud s.work.hse = some p ∧
        ∃ t : State, exec .wibrd s = .next t ∧
          (∀ j : Inst, t.uart.get j =
            if j = s.work.inst then { s.uart.get j with ibrd := some p.1 } else s.uart.get j) ∧
          t.trace = s.trace ++ [.wr (BitVec.ofNat 5 (8 * s.work.inst.index)) (p.1.setWidth 32)] ∧
          t.pc = 5 ∧ t = { s with uart := t.uart, trace := t.trace, pc := t.pc }) ∧
    (s.clken.getLsbD s.work.inst.index = false ∨ s.stable.getLsbD s.work.inst.index = false →
      exec .wibrd s = .next { s with fcode := 4, pc := 14 }) ∧
    (s.clken.getLsbD s.work.inst.index = true → s.stable.getLsbD s.work.inst.index = true →
      (∀ c, (s.uart.get s.work.inst).ctl = some c → c.getLsbD 0 = true) →
      exec .wibrd s = .next { s with fcode := 5, pc := 14 })

/-- WFBRD: FBRD of the instance takes DIVGEN's second component (R126); the rest as WIBRD. -/
def Obligations.WfbrdRuns : Prop :=
  ∀ s : State, s.work.baud ≠ 0 →
    (s.clken.getLsbD s.work.inst.index = true → s.stable.getLsbD s.work.inst.index = true →
      ∀ c, (s.uart.get s.work.inst).ctl = some c → c.getLsbD 0 = false →
      ∃ p, divgen Config.refHz s.work.baud s.work.hse = some p ∧
        ∃ t : State, exec .wfbrd s = .next t ∧
          (∀ j : Inst, t.uart.get j =
            if j = s.work.inst then { s.uart.get j with fbrd := some p.2 } else s.uart.get j) ∧
          t.trace = s.trace ++ [.wr (BitVec.ofNat 5 (8 * s.work.inst.index + 1)) (p.2.setWidth 32)] ∧
          t.pc = 6 ∧ t = { s with uart := t.uart, trace := t.trace, pc := t.pc }) ∧
    (s.clken.getLsbD s.work.inst.index = false ∨ s.stable.getLsbD s.work.inst.index = false →
      exec .wfbrd s = .next { s with fcode := 4, pc := 14 }) ∧
    (s.clken.getLsbD s.work.inst.index = true → s.stable.getLsbD s.work.inst.index = true →
      (∀ c, (s.uart.get s.work.inst).ctl = some c → c.getLsbD 0 = true) →
      exec .wfbrd s = .next { s with fcode := 5, pc := 14 })

/-- WIBRD and WFBRD with W_BAUD = 0, where DIVGEN has no value: refused by name if no write guard fails, else the guard's
fault (40_divgen section 1; that the guards come first is the model's choice, log entry 8). -/
def Obligations.NoDivisor : Prop :=
  ∀ (s : State) (i : Instr), s.work.baud = 0 → i ∈ [.wibrd, .wfbrd] →
    (s.clken.getLsbD s.work.inst.index = true → s.stable.getLsbD s.work.inst.index = true →
      ∀ c, (s.uart.get s.work.inst).ctl = some c → c.getLsbD 0 = false → exec i s = .refused .divgenNoValue) ∧
    (s.clken.getLsbD s.work.inst.index = false ∨ s.stable.getLsbD s.work.inst.index = false →
      exec i s = .next { s with fcode := 4, pc := 14 }) ∧
    (s.clken.getLsbD s.work.inst.index = true → s.stable.getLsbD s.work.inst.index = true →
      (∀ c, (s.uart.get s.work.inst).ctl = some c → c.getLsbD 0 = true) →
      exec i s = .next { s with fcode := 5, pc := 14 })

/-- WLCRH: every bit of LCRH of the instance is LCGEN's, whatever it held (R127). -/
def Obligations.WlcrhRuns : Prop :=
  ∀ s : State,
    (s.clken.getLsbD s.work.inst.index = true → s.stable.getLsbD s.work.inst.index = true →
      ∀ c, (s.uart.get s.work.inst).ctl = some c → c.getLsbD 0 = false →
      ∃ t : State, exec .wlcrh s = .next t ∧
        (∀ j : Inst, t.uart.get j =
          if j = s.work.inst then { s.uart.get j with lcrh := some (lcgen s.work.wlen s.work.par s.work.stp2) }
          else s.uart.get j) ∧
        t.trace = s.trace ++ [.wr (BitVec.ofNat 5 (8 * s.work.inst.index + 2))
          ((lcgen s.work.wlen s.work.par s.work.stp2).setWidth 32)] ∧
        t.pc = 7 ∧ t = { s with uart := t.uart, trace := t.trace, pc := t.pc }) ∧
    (s.clken.getLsbD s.work.inst.index = false ∨ s.stable.getLsbD s.work.inst.index = false →
      exec .wlcrh s = .next { s with fcode := 4, pc := 14 }) ∧
    (s.clken.getLsbD s.work.inst.index = true → s.stable.getLsbD s.work.inst.index = true →
      (∀ c, (s.uart.get s.work.inst).ctl = some c → c.getLsbD 0 = true) →
      exec .wlcrh s = .next { s with fcode := 5, pc := 14 })

/-- PINS: one request 0xE or 0xF on the pin-request wire in this step, of which UCFG keeps no record but TRACE (R128). The
collaborator's own record is the model's (log entry 10); only the wire that R24 gives is spoken of. -/
def Obligations.PinsRuns : Prop :=
  ∀ s : State,
    (s.clken.getLsbD (2 + s.work.inst.index) = true → s.stable.getLsbD (2 + s.work.inst.index) = true →
      ∃ t : State, exec .pins s = .next t ∧
        pinreqWire s t = some (if s.work.inst = .u1 then 0xE else 0xF) ∧
        t.trace = s.trace ++ [.wr 0x13 (if s.work.inst = .u1 then 0xE else 0xF)] ∧ t.pc = 8 ∧
        t = { s with trace := t.trace, pc := t.pc, pinLog := t.pinLog }) ∧
    (s.clken.getLsbD (2 + s.work.inst.index) = false ∨ s.stable.getLsbD (2 + s.work.inst.index) = false →
      exec .pins s = .next { s with fcode := 6, pc := 14 })

/-- ENA with the completion: CTL of the instance takes 0x301 or 0x321, CONFIGURED of the instance becomes 1, STEP is IDLE;
the enable guard does not apply (R129). -/
def Obligations.EnaRuns : Prop :=
  ∀ s : State,
    (s.clken.getLsbD s.work.inst.index = true → s.stable.getLsbD s.work.inst.index = true →
      ∃ t : State, exec .ena s = .next t ∧
        (∀ j : Inst, t.uart.get j =
          if j = s.work.inst then { s.uart.get j with ctl := some (if s.work.hse = .hs then 0x321 else 0x301) }
          else s.uart.get j) ∧
        t.trace = s.trace ++
          [.wr (BitVec.ofNat 5 (8 * s.work.inst.index + 3)) (if s.work.hse = .hs then 0x321 else 0x301)] ∧
        (∀ j : Inst, t.configured.get j = if j = s.work.inst then true else s.configured.get j) ∧ t.pc = 15 ∧
        t = { s with uart := t.uart, trace := t.trace, configured := t.configured, pc := t.pc }) ∧
    (s.clken.getLsbD s.work.inst.index = false ∨ s.stable.getLsbD s.work.inst.index = false →
      exec .ena s = .next { s with fcode := 4, pc := 14 })

/-! ### The register bus -/

/-- MemRead of CLKSTAT in 32 bits: it answers a value, whichever the environment supplies, acts as the barrier, appends
`Rd(0x11)`, and raises no fault (R44). The count of draws is the model's (log entry 7). -/
def Obligations.MemReadRule : Prop :=
  ∀ s : State, ∃ (x : BitVec 32) (t : State), memRead 0x11 32 s = .done (x, t) ∧
    (∀ b < 4, t.stable.getLsbD b = if s.clken.getLsbD b = true then true else s.stable.getLsbD b) ∧
    t.trace = s.trace ++ [.rd 0x11] ∧ t = { s with stable := t.stable, trace := t.trace, draws := t.draws }

/-- MemWrite of each writable register in its width: a failing guard and nothing else; or the write, then the TRACE entry,
and nothing else (R45). -/
def Obligations.MemWriteRule : Prop :=
  ∀ (r : Reg) (v : BitVec r.width) (s : State), r.access = .write →
    (∀ f, writeGuard r v s = some f → memWrite r.number r.width v s = .raised f) ∧
    (writeGuard r v s = none → ∃ t : State, memWrite r.number r.width v s = .done t ∧
      t.trace = s.trace ++ [.wr r.number (BitVec.ofNat 32 v.toNat)] ∧
      match r with
      | .ibrd i => t = { s with uart := t.uart, trace := t.trace } ∧ ∀ j : Inst, t.uart.get j =
          if j = i then { s.uart.get j with ibrd := some (BitVec.ofNat 16 v.toNat) } else s.uart.get j
      | .fbrd i => t = { s with uart := t.uart, trace := t.trace } ∧ ∀ j : Inst, t.uart.get j =
          if j = i then { s.uart.get j with fbrd := some (BitVec.ofNat 6 v.toNat) } else s.uart.get j
      | .lcrh i => t = { s with uart := t.uart, trace := t.trace } ∧ ∀ j : Inst, t.uart.get j =
          if j = i then { s.uart.get j with lcrh := some (BitVec.ofNat 8 v.toNat) } else s.uart.get j
      | .ctl i => t = { s with uart := t.uart, trace := t.trace } ∧ ∀ j : Inst, t.uart.get j =
          if j = i then { s.uart.get j with ctl := some (BitVec.ofNat 10 v.toNat) } else s.uart.get j
      | .clken => t = { s with clken := t.clken, stable := t.stable, trace := t.trace } ∧ ∀ b < 4,
          t.clken.getLsbD b = (s.clken.getLsbD b || v.toNat.testBit b) ∧
          t.stable.getLsbD b = if v.toNat.testBit b = true ∧ s.clken.getLsbD b = false then false else s.stable.getLsbD b
      | .pinreq => t = { s with trace := t.trace, pinLog := t.pinLog } ∧ pinreqWire s t = some (BitVec.ofNat 4 v.toNat)
      | .clkstat => False
      | .status => False)

/-- Reserved numbers and reserved directions have no meaning, in any width; and no instruction makes such a transaction
(R42). -/
def Obligations.ReservedAccessRefused : Prop :=
  (∀ (rn : RegNum) (n : Nat) (v : BitVec n) (s : State),
    rn ∉ [0x00, 0x01, 0x02, 0x03, 0x08, 0x09, 0x0A, 0x0B, 0x10, 0x13] →
      memWrite rn n v s = .refused (.reservedAccess rn)) ∧
  (∀ (rn : RegNum) (n : Nat) (s : State), rn ≠ 0x11 → memRead rn n s = .refused (.reservedAccess rn)) ∧
  (∀ (i : Instr) (s : State) (rn : RegNum), exec i s ≠ .refused (.reservedAccess rn))

/-- The clock guard: a write to a register of UART i needs UCLK[i] = 1 and STABLE[i] = 1, else ClockOff (R48). -/
def Obligations.ClockGuard : Prop :=
  ∀ (i : Inst) (r : Reg), r ∈ [.ibrd i, .fbrd i, .lcrh i, .ctl i] → ∀ (v : BitVec r.width) (s : State),
    (memWrite r.number r.width v s = .raised (.clockOff r.number) ↔
      ¬ (s.clken.getLsbD i.index = true ∧ s.stable.getLsbD i.index = true))

/-- The enable guard, evaluated after the clock guard: a write to IBRD, FBRD or LCRH of UART i needs CTL[i] defined with
UARTEN = 0, else WriteWhileEnabled; CTL itself is not subject to it (R49). -/
def Obligations.EnableGuard : Prop :=
  (∀ (i : Inst) (r : Reg), r ∈ [.ibrd i, .fbrd i, .lcrh i] → ∀ (v : BitVec r.width) (s : State),
    (memWrite r.number r.width v s = .raised (.writeWhileEnabled r.number) ↔
      (s.clken.getLsbD i.index = true ∧ s.stable.getLsbD i.index = true) ∧
        ((s.uart.get i).ctl = none ∨ ∃ c, (s.uart.get i).ctl = some c ∧ c.getLsbD 0 = true))) ∧
  (∀ (i : Inst) (v : BitVec 10) (s : State) (rn : RegNum),
    memWrite (BitVec.ofNat 5 (8 * i.index + 3)) 10 v s ≠ .raised (.writeWhileEnabled rn))

/-- The pin-clock guard: a pin request for instance v[0] needs PCLK and STABLE of that pin block, else PinClockOff; CLKEN
and the read of CLKSTAT have no guard (R50). -/
def Obligations.PinClockGuard : Prop :=
  (∀ (v : BitVec 4) (s : State),
    (memWrite 0x13 4 v s = .raised (.pinClockOff v) ↔
      ¬ (s.clken.getLsbD (2 + (v.getLsbD 0).toNat) = true ∧ s.stable.getLsbD (2 + (v.getLsbD 0).toNat) = true))) ∧
  (∀ (v : BitVec 4) (s : State), ∃ t : State, memWrite 0x10 4 v s = .done t) ∧
  (∀ s : State, ∃ x, memRead 0x11 32 s = .done x)

/-! ### DIVGEN and LCGEN -/

/-- DIVGEN's value for every reference clock: quotient and remainder of d = factor * baud, the rounded fraction, the carry;
the second component needs no narrowing (R85). -/
def Obligations.DivgenFormula : Prop :=
  ∀ (ref : Nat) (baud : BitVec 20) (hse : Sampling), baud ≠ 0 →
    ∃ (p : BitVec 16 × BitVec 6) (d q r f : Nat), divgen ref baud hse = some p ∧
      d = (if hse = .std then 16 else 8) * baud.toNat ∧ ref = q * d + r ∧ r < d ∧
      f * d ≤ r * 64 + d / 2 ∧ r * 64 + d / 2 < (f + 1) * d ∧
      p.1.toNat = (if f = 64 then q + 1 else q) % 2 ^ 16 ∧ p.2.toNat = (if f = 64 then 0 else f)

/-- The closed form: for a legal reference clock and a baud rate of at least 2400, 64 * ibrd + fbrd is
(64 * ref + d / 2) / d, and no bit is lost by narrowing (40_divgen section 3; the spec marks R90 and R87 as derived). -/
def Obligations.DivgenClosedForm : Prop :=
  ∀ (ref : Nat) (baud : BitVec 20) (hse : Sampling), Config.RefHzLegal ref → 2400 ≤ baud.toNat →
    ∃ p, divgen ref baud hse = some p ∧
      64 * p.1.toNat + p.2.toNat = (64 * ref + denominator baud hse / 2) / denominator baud hse

/-- The pair is the nearest: |N/64 - ref/d| is at most 1/128, written without fractions (40_divgen section 3, R90;
95_test_vectors E2). -/
def Obligations.DivgenNearest : Prop :=
  ∀ (ref : Nat) (baud : BitVec 20) (hse : Sampling), Config.RefHzLegal ref → 2400 ≤ baud.toNat →
    ∃ p, divgen ref baud hse = some p ∧
      2 * (64 * p.1.toNat + p.2.toNat) * denominator baud hse ≤ 128 * ref + denominator baud hse ∧
      128 * ref ≤ 2 * (64 * p.1.toNat + p.2.toNat) * denominator baud hse + denominator baud hse

/-- At 16 MHz the integer divisor is 1 to 833 on the whole baud interval, and never zero (40_divgen section 3, R87, R91). -/
def Obligations.DivgenRange : Prop :=
  ∀ (baud : BitVec 20) (hse : Sampling), 2400 ≤ baud.toNat → baud.toNat ≤ 1000000 →
    ∃ p, divgen 16000000 baud hse = some p ∧ 1 ≤ p.1.toNat ∧ p.1.toNat ≤ 833

/-- When the fraction carries: exactly when 128 * r is at least 127 * d (40_divgen section 2; the spec marks it derived
in R84). -/
def Obligations.DivgenCarry : Prop :=
  ∀ (ref : Nat) (baud : BitVec 20) (hse : Sampling), baud ≠ 0 →
    (fracPart ref (denominator baud hse) = 64 ↔ 127 * denominator baud hse ≤ 128 * (ref % denominator baud hse))

/-- LCGEN field by field: WLEN in 6:5, PEN and EPS by parity, STP2, FEN always 1, bits 0 and 7 zero (R101, R102, R103,
R105, R107). -/
def Obligations.LcgenFields : Prop :=
  ∀ (wlen : BitVec 2) (par : Parity) (stp2 : StopBits),
    (lcgen wlen par stp2).extractLsb' 5 2 = wlen ∧
    (lcgen wlen par stp2).getLsbD 1 = decide (par ≠ .disabled) ∧
    (lcgen wlen par stp2).getLsbD 2 = decide (par = .even) ∧
    (lcgen wlen par stp2).getLsbD 3 = decide (stp2 = .two) ∧
    (lcgen wlen par stp2).getLsbD 4 = true ∧
    (lcgen wlen par stp2).getLsbD 0 = false ∧
    (lcgen wlen par stp2).getLsbD 7 = false

/-- LCGEN is injective: the framing fields can be read back from LCRH (41_lcgen R108, which the spec marks derived). -/
def Obligations.LcgenInjective : Prop :=
  ∀ (w w' : BitVec 2) (p p' : Parity) (b b' : StopBits), lcgen w p b = lcgen w' p' b' → w = w' ∧ p = p' ∧ b = b'

/-! ### The views -/

/-- STATUS: its bits, from STEP, CONFIGURED and FCODE; the same values on the wires; 0x00 after reset; and no instruction
accesses register 0x12 (R23). -/
def Obligations.StatusView : Prop :=
  (∀ s : State,
    (status s).getLsbD 0 = decide (s.pc.toNat ≤ 8) ∧ (status s).getLsbD 1 = decide (s.pc = 14) ∧
    (status s).getLsbD 2 = s.configured.u1 ∧ (status s).getLsbD 3 = s.configured.u2 ∧
    (status s).extractLsb' 4 4 = s.fcode ∧
    (status s).getLsbD 0 = busy s ∧ (status s).getLsbD 1 = inFault s ∧ (status s).extractLsb' 2 2 = configuredWire s) ∧
  status State.reset = 0x00 ∧
  (∀ (i : Instr) (s t : State) (e : Txn), exec i s = .next t → e ∈ t.trace → e.rn = 0x12 → e ∈ s.trace)

/-- pinreq_valid is up in exactly the steps that are a PINS whose guard holds, with data 0xE or 0xF (10_state section 4,
20_memory section 3; the collaborator's record is the model's, log entry 10). -/
def Obligations.PinRequestWire : Prop :=
  ∀ (s t : State) (v : BitVec 4), step s = .next t →
    (pinreqWire s t = some v ↔
      rstNow s = false ∧ s.pc = 7 ∧ s.clken.getLsbD (2 + s.work.inst.index) = true ∧
        s.stable.getLsbD (2 + s.work.inst.index) = true ∧ v = if s.work.inst = .u1 then 0xE else 0xF)

/-! ### The whole machine -/

/-- The only transfers of control: reset to IDLE; a micro-op to the next, ENA to IDLE, or to FAULT; FAULT to FAULT; IDLE to
CLKU, to IDLE or to FAULT (42_initseq section 4, 10_state section 2). -/
def Obligations.ControlTransfer : Prop :=
  ∀ s t : State, step s = .next t →
    (rstNow s = true ∧ t.pc = 15) ∨
    (rstNow s = false ∧ s.pc.toNat ≤ 7 ∧ (t.pc = s.pc + 1 ∨ t.pc = 14)) ∨
    (rstNow s = false ∧ s.pc = 8 ∧ (t.pc = 15 ∨ t.pc = 14)) ∨
    (rstNow s = false ∧ s.pc = 14 ∧ t.pc = 14) ∨
    (rstNow s = false ∧ s.pc = 15 ∧ (t.pc = 0 ∨ t.pc = 15 ∨ t.pc = 14))

/-- FAULT and FCODE are left as they are by every step but reset (60 section 5, 42_initseq section 4). -/
def Obligations.FaultIsSticky : Prop :=
  ∀ s t : State, s.pc = 14 → step s = .next t → rstNow s = true ∨ t = { s with hostRst := s.hostRst.tail }

/-- CONFIGURED[i] rises only by a fault-free ENA for instance i, and falls only by reset or by the acceptance of a valid
INIT for i (42_initseq sections 3 and 4; 10_state section 3). -/
def Obligations.ConfiguredChanges : Prop :=
  ∀ (s t : State) (i : Inst), step s = .next t →
    (s.configured.get i = false → t.configured.get i = true →
      rstNow s = false ∧ s.pc = 8 ∧ s.work.inst = i ∧ t.pc = 15 ∧
        ∃ c, (t.uart.get i).ctl = some c ∧ uarten c = true ∧ txe c = true ∧ rxe c = true) ∧
    (s.configured.get i = true → t.configured.get i = false →
      rstNow s = true ∨ (s.pc = 15 ∧ t.pc = 0 ∧ t.work.inst = i))

/-- The working registers change only by reset or by the acceptance of a valid INIT (10_state section 1). -/
def Obligations.WorkChangesAtAcceptance : Prop :=
  ∀ s t : State, step s = .next t → rstNow s = true ∨ t.work = s.work ∨ (s.pc = 15 ∧ t.pc = 0)

/-- Nothing but reset turns a clock off (42_initseq section 4; 10_state section 4). -/
def Obligations.ClocksStayOn : Prop :=
  ∀ (s t : State) (b : Nat), step s = .next t → rstNow s = false → s.clken.getLsbD b = true → t.clken.getLsbD b = true

/-- TRACE is a history: reset empties it; a micro-op that takes no fault appends exactly one transaction; every other step
leaves it (42_initseq section 3, 10_state section 6, 60 section 4). -/
def Obligations.TraceGrowth : Prop :=
  ∀ s t : State, step s = .next t →
    (rstNow s = true ∧ t.trace = []) ∨
    (rstNow s = false ∧ s.pc.toNat ≤ 8 ∧ t.pc ≠ 14 ∧ ∃ e, t.trace = s.trace ++ [e]) ∨
    (rstNow s = false ∧ (8 < s.pc.toNat ∨ t.pc = 14) ∧ t.trace = s.trace)

/-- A micro-op of the INIT for one instance changes nothing of the other: no register, no CONFIGURED bit, no clock gate
(42_initseq R134, which the spec marks derived). -/
def Obligations.InstanceIsolation : Prop :=
  ∀ (s t : State) (j : Inst), step s = .next t → rstNow s = false → s.pc.toNat ≤ 8 → j ≠ s.work.inst →
    t.uart.get j = s.uart.get j ∧ t.configured.get j = s.configured.get j ∧
      t.clken.getLsbD (uclkBit j) = s.clken.getLsbD (uclkBit j) ∧ t.clken.getLsbD (pclkBit j) = s.clken.getLsbD (pclkBit j)

/-- The invariant holds after reset. -/
def Obligations.InvAtReset : Prop := Inv State.reset

/-- Every step keeps the invariant (42_initseq R133; 95_test_vectors part 4 (g), (h)). -/
def Obligations.InvStep : Prop := ∀ s t : State, Inv s → step s = .next t → Inv t

/-- In a state that meets the invariant the fixed sequence raises no fault: a micro-op answers a next state and moves on
(42_initseq R133, which the spec marks derived). -/
def Obligations.SequenceRaisesNoFault : Prop :=
  ∀ s : State, Inv s → rstNow s = false → s.pc.toNat ≤ 8 →
    ∃ t : State, step s = .next t ∧ t.pc ≠ 14 ∧ t.fcode = 0

/-- The state a valid INIT comes back to IDLE with, after one accept and nine micro-ops, from every IDLE state with FCODE
as it is, when no reset is asserted meanwhile; the nine transactions in order (42_initseq R131, R136, which the spec marks
derived). The host's lists, the draws and the collaborator's record are the model's (log entries 1, 7, 10). -/
def Obligations.InitEndState : Prop :=
  ∀ (s : State) (inst : Inst) (hse : Sampling) (stp2 : StopBits) (par : Parity) (wlen : BitVec 2) (baud : BitVec 20)
    (w : CmdWord) (rest : List CmdWord),
    s.pc = 15 → (∀ b ∈ s.hostRst, b = false) → s.hostCmds = w :: rest →
    encode (.init inst hse stp2 par.code wlen baud) = .cmd w → Config.baudSet baud = true →
    ∃ (t : State) (p : BitVec 16 × BitVec 6), Host.Core.run core 10 s = .next t ∧
      divgen Config.refHz baud hse = some p ∧
      t.work = { baud := baud, wlen := wlen, par := par, stp2 := stp2, hse := hse, inst := inst } ∧ t.pc = 15 ∧
      t.fcode = s.fcode ∧
      (∀ j : Inst, t.configured.get j = if j = inst then true else s.configured.get j) ∧
      (∀ j : Inst, t.uart.get j =
        if j = inst then ⟨some p.1, some p.2, some (lcgen wlen par stp2), some (ctlOn hse)⟩ else s.uart.get j) ∧
      t.clken = s.clken ||| uclkMask inst ||| pclkMask inst ∧
      (∀ b, t.clken.getLsbD b = true → t.stable.getLsbD b = true) ∧
      t.trace = s.trace ++ [.wr 0x10 ((uclkMask inst).setWidth 32), .wr 0x10 ((pclkMask inst).setWidth 32), .rd 0x11,
        .wr (uartRn inst 3) ((ctlOff hse).setWidth 32), .wr (uartRn inst 0) (p.1.setWidth 32),
        .wr (uartRn inst 1) (p.2.setWidth 32), .wr (uartRn inst 2) ((lcgen wlen par stp2).setWidth 32),
        .wr 0x13 ((pinRequest inst).setWidth 32), .wr (uartRn inst 3) ((ctlOn hse).setWidth 32)] ∧
      t.hostCmds = rest

/-- The same valid INIT twice leaves everything of UCFG but TRACE as once (42_initseq R135, which the spec marks derived;
90_conflicts C5). -/
def Obligations.InitIdempotent : Prop :=
  ∀ (s : State) (inst : Inst) (hse : Sampling) (stp2 : StopBits) (par : Parity) (wlen : BitVec 2) (baud : BitVec 20)
    (w : CmdWord) (rest : List CmdWord),
    s.pc = 15 → (∀ b ∈ s.hostRst, b = false) → s.hostCmds = w :: w :: rest →
    encode (.init inst hse stp2 par.code wlen baud) = .cmd w → Config.baudSet baud = true →
    ∃ t u : State, Host.Core.run core 10 s = .next t ∧ Host.Core.run core 20 s = .next u ∧
      u = { t with trace := u.trace, hostCmds := u.hostCmds, hostRst := u.hostRst, draws := u.draws, pinLog := u.pinLog }

end
end

