-- ==== Sys2Proof/Laws/Decode.lean ====
section
/-! SUPPORT. What the decoder answers, once: by OP and CFG_VALID of a command word, and by the value of STEP; and the bytes of a
register on a byte bus. -/

namespace Sys2Proof

@[simp] theorem Inst.ofBit_bit (i : Inst) : Inst.ofBit i.bit = i := by cases i <;> rfl

@[simp] theorem Inst.bit_ofBit (b : BitVec 1) : (Inst.ofBit b).bit = b := by revert b; decide

@[simp] theorem Sampling.ofBit_bit (h : Sampling) : Sampling.ofBit h.bit = h := by cases h <;> rfl

@[simp] theorem Sampling.bit_ofBit (b : BitVec 1) : (Sampling.ofBit b).bit = b := by revert b; decide

@[simp] theorem StopBits.ofBit_bit (s : StopBits) : StopBits.ofBit s.bit = s := by cases s <;> rfl

@[simp] theorem StopBits.bit_ofBit (b : BitVec 1) : (StopBits.ofBit b).bit = b := by revert b; decide

@[simp] theorem Parity.ofCode_code (p : Parity) : Parity.ofCode p.code = some p := by cases p <;> rfl

theorem Parity.code_of_ofCode {b : BitVec 2} {p : Parity} (h : Parity.ofCode b = some p) : p.code = b := by
  revert h; revert b; cases p <;> decide

theorem Parity.ofCode_none {b : BitVec 2} : Parity.ofCode b = none ↔ b = 3 := by revert b; decide

/-- The three answers for a command word, each with what OP and CFG_VALID are (R76). -/
theorem decodeCmd_badOpcode {c : CmdWord} (h : opField c ≠ 1) : decodeCmd c = .rejected (.badOpcode c) := by
  unfold decodeCmd; rw [if_pos h]

theorem decodeCmd_null {c : CmdWord} (h : opField c = 1) (hv : validField c = 0) :
    decodeCmd c = .ok (.initNull (c.extractLsb' 0 27)) := by
  unfold decodeCmd; rw [if_neg (not_not_intro h), if_pos hv]

theorem decodeCmd_init {c : CmdWord} (h : opField c = 1) (hv : validField c = 1) :
    decodeCmd c = .ok (.init (Inst.ofBit (c.extractLsb' 26 1)) (Sampling.ofBit (c.extractLsb' 25 1))
      (StopBits.ofBit (c.extractLsb' 24 1)) (c.extractLsb' 22 2) (c.extractLsb' 20 2) (c.extractLsb' 0 20)) := by
  have hv0 : validField c ≠ 0 := by rw [hv]; decide
  unfold decodeCmd; rw [if_neg (not_not_intro h), if_neg hv0]

/-- A command word never decodes to a micro-op. -/
theorem decodeCmd_ok {c : CmdWord} {i : Instr} (h : decodeCmd c = .ok i) :
    (∃ x, i = .initNull x) ∨ ∃ a b s p w d, i = .init a b s p w d := by
  unfold decodeCmd at h
  split at h
  · cases h
  · split at h <;> cases h
    · exact .inl ⟨_, rfl⟩
    · exact .inr ⟨_, _, _, _, _, _, rfl⟩

/-- A micro-op is decoded from its own code only (R68): `encode` says which. -/
theorem encode_of_decodeUstep {k : StepCode} {i : Instr} (h : decodeUstep k = .ok i) : encode i = .ustep k := by
  unfold decodeUstep at h
  split at h <;> cases h <;> rename_i hk <;> exact congrArg Code.ustep (BitVec.eq_of_toNat_eq hk.symm)

/-- A byte that lies whole inside the register carries no free value (R43). -/
theorem busByte_inside (obs : Nat) {n : Nat} (v : BitVec n) {k : Nat} (h : 8 * k + 8 ≤ n) :
    busByte obs v k = v.extractLsb' (8 * k) 8 := if_pos h

/-- Every bit a register has is in its byte, whatever the free value is (R43). -/
theorem busByte_bit (obs : Nat) {n : Nat} (v : BitVec n) {k b : Nat} (hb : b < 8) (h : 8 * k + b < n) :
    (busByte obs v k).getLsbD b = v.getLsbD (8 * k + b) := by
  unfold busByte
  split
  · simp [hb]
  · have : b < n - 8 * k := by omega
    simp [hb, this]

end Sys2Proof
end

