-- ==== Sys2Proof/Laws/State.lean ====
section
/-! SUPPORT. What each update of the state leaves in each field: one lemma for each field of each update. -/

namespace Sys2Proof.Machine

@[simp] theorem PerInst.get_set_same {α : Type} (p : PerInst α) (i : Inst) (a : α) : (p.set i a).get i = a := by
  cases i <;> rfl

theorem PerInst.get_set_other {α : Type} (p : PerInst α) {i j : Inst} (a : α) (h : j ≠ i) :
    (p.set i a).get j = p.get j := by
  cases i <;> cases j <;> first | rfl | exact absurd rfl h

theorem PerInst.get_set {α : Type} (p : PerInst α) (i j : Inst) (a : α) :
    (p.set i a).get j = if j = i then a else p.get j := by
  split
  · subst j; exact get_set_same p i a
  · exact get_set_other p a (by assumption)

@[simp] theorem PerInst.set_set {α : Type} (p : PerInst α) (i : Inst) (a b : α) : (p.set i a).set i b = p.set i b := by
  cases i <;> rfl

theorem PerInst.ext_get {α : Type} {p q : PerInst α} (h : ∀ i, p.get i = q.get i) : p = q := by
  cases p; cases q
  exact (PerInst.mk.injEq ..).mpr ⟨h .u1, h .u2⟩

@[simp] theorem PerInst.set_get {α : Type} (p : PerInst α) (i : Inst) : p.set i (p.get i) = p := by
  cases i <;> rfl

@[simp] theorem raise_work (f : Cause) (s : State) : (raise f s).work = s.work := rfl
@[simp] theorem raise_pc (f : Cause) (s : State) : (raise f s).pc = 14 := rfl
@[simp] theorem raise_fcode (f : Cause) (s : State) : (raise f s).fcode = f.fcode := rfl
@[simp] theorem raise_configured (f : Cause) (s : State) : (raise f s).configured = s.configured := rfl
@[simp] theorem raise_uart (f : Cause) (s : State) : (raise f s).uart = s.uart := rfl
@[simp] theorem raise_clken (f : Cause) (s : State) : (raise f s).clken = s.clken := rfl
@[simp] theorem raise_stable (f : Cause) (s : State) : (raise f s).stable = s.stable := rfl
@[simp] theorem raise_trace (f : Cause) (s : State) : (raise f s).trace = s.trace := rfl
@[simp] theorem raise_hostCmds (f : Cause) (s : State) : (raise f s).hostCmds = s.hostCmds := rfl
@[simp] theorem raise_hostRst (f : Cause) (s : State) : (raise f s).hostRst = s.hostRst := rfl
@[simp] theorem raise_draws (f : Cause) (s : State) : (raise f s).draws = s.draws := rfl
@[simp] theorem raise_pinLog (f : Cause) (s : State) : (raise f s).pinLog = s.pinLog := rfl

@[simp] theorem tick_work (s : State) : (tick s).work = s.work := rfl
@[simp] theorem tick_pc (s : State) : (tick s).pc = s.pc := rfl
@[simp] theorem tick_fcode (s : State) : (tick s).fcode = s.fcode := rfl
@[simp] theorem tick_configured (s : State) : (tick s).configured = s.configured := rfl
@[simp] theorem tick_uart (s : State) : (tick s).uart = s.uart := rfl
@[simp] theorem tick_clken (s : State) : (tick s).clken = s.clken := rfl
@[simp] theorem tick_stable (s : State) : (tick s).stable = s.stable := rfl
@[simp] theorem tick_trace (s : State) : (tick s).trace = s.trace := rfl
@[simp] theorem tick_hostCmds (s : State) : (tick s).hostCmds = s.hostCmds := rfl
@[simp] theorem tick_hostRst (s : State) : (tick s).hostRst = s.hostRst.tail := rfl
@[simp] theorem tick_draws (s : State) : (tick s).draws = s.draws := rfl
@[simp] theorem tick_pinLog (s : State) : (tick s).pinLog = s.pinLog := rfl

@[simp] theorem takeWord_work (s : State) : (takeWord s).work = s.work := rfl
@[simp] theorem takeWord_pc (s : State) : (takeWord s).pc = s.pc := rfl
@[simp] theorem takeWord_fcode (s : State) : (takeWord s).fcode = s.fcode := rfl
@[simp] theorem takeWord_configured (s : State) : (takeWord s).configured = s.configured := rfl
@[simp] theorem takeWord_uart (s : State) : (takeWord s).uart = s.uart := rfl
@[simp] theorem takeWord_clken (s : State) : (takeWord s).clken = s.clken := rfl
@[simp] theorem takeWord_stable (s : State) : (takeWord s).stable = s.stable := rfl
@[simp] theorem takeWord_trace (s : State) : (takeWord s).trace = s.trace := rfl
@[simp] theorem takeWord_hostCmds (s : State) : (takeWord s).hostCmds = s.hostCmds.tail := rfl
@[simp] theorem takeWord_hostRst (s : State) : (takeWord s).hostRst = s.hostRst.tail := rfl
@[simp] theorem takeWord_draws (s : State) : (takeWord s).draws = s.draws := rfl
@[simp] theorem takeWord_pinLog (s : State) : (takeWord s).pinLog = s.pinLog := rfl

@[simp] theorem setPc_work (k : StepCode) (s : State) : (setPc k s).work = s.work := rfl
@[simp] theorem setPc_pc (k : StepCode) (s : State) : (setPc k s).pc = k := rfl
@[simp] theorem setPc_fcode (k : StepCode) (s : State) : (setPc k s).fcode = s.fcode := rfl
@[simp] theorem setPc_configured (k : StepCode) (s : State) : (setPc k s).configured = s.configured := rfl
@[simp] theorem setPc_uart (k : StepCode) (s : State) : (setPc k s).uart = s.uart := rfl
@[simp] theorem setPc_clken (k : StepCode) (s : State) : (setPc k s).clken = s.clken := rfl
@[simp] theorem setPc_stable (k : StepCode) (s : State) : (setPc k s).stable = s.stable := rfl
@[simp] theorem setPc_trace (k : StepCode) (s : State) : (setPc k s).trace = s.trace := rfl
@[simp] theorem setPc_hostCmds (k : StepCode) (s : State) : (setPc k s).hostCmds = s.hostCmds := rfl
@[simp] theorem setPc_hostRst (k : StepCode) (s : State) : (setPc k s).hostRst = s.hostRst := rfl
@[simp] theorem setPc_draws (k : StepCode) (s : State) : (setPc k s).draws = s.draws := rfl
@[simp] theorem setPc_pinLog (k : StepCode) (s : State) : (setPc k s).pinLog = s.pinLog := rfl

@[simp] theorem complete_work (s : State) : (complete s).work = s.work := rfl
@[simp] theorem complete_pc (s : State) : (complete s).pc = 15 := rfl
@[simp] theorem complete_fcode (s : State) : (complete s).fcode = s.fcode := rfl
@[simp] theorem complete_configured (s : State) : (complete s).configured = s.configured.set s.work.inst true := rfl
@[simp] theorem complete_uart (s : State) : (complete s).uart = s.uart := rfl
@[simp] theorem complete_clken (s : State) : (complete s).clken = s.clken := rfl
@[simp] theorem complete_stable (s : State) : (complete s).stable = s.stable := rfl
@[simp] theorem complete_trace (s : State) : (complete s).trace = s.trace := rfl
@[simp] theorem complete_hostCmds (s : State) : (complete s).hostCmds = s.hostCmds := rfl
@[simp] theorem complete_hostRst (s : State) : (complete s).hostRst = s.hostRst := rfl
@[simp] theorem complete_draws (s : State) : (complete s).draws = s.draws := rfl
@[simp] theorem complete_pinLog (s : State) : (complete s).pinLog = s.pinLog := rfl

@[simp] theorem updUart_work (i : Inst) (f : Uart → Uart) (s : State) : (updUart i f s).work = s.work := rfl
@[simp] theorem updUart_pc (i : Inst) (f : Uart → Uart) (s : State) : (updUart i f s).pc = s.pc := rfl
@[simp] theorem updUart_fcode (i : Inst) (f : Uart → Uart) (s : State) : (updUart i f s).fcode = s.fcode := rfl
@[simp] theorem updUart_configured (i : Inst) (f : Uart → Uart) (s : State) : (updUart i f s).configured = s.configured := rfl
@[simp] theorem updUart_uart (i : Inst) (f : Uart → Uart) (s : State) : (updUart i f s).uart = s.uart.set i (f (s.uart.get i)) := rfl
@[simp] theorem updUart_clken (i : Inst) (f : Uart → Uart) (s : State) : (updUart i f s).clken = s.clken := rfl
@[simp] theorem updUart_stable (i : Inst) (f : Uart → Uart) (s : State) : (updUart i f s).stable = s.stable := rfl
@[simp] theorem updUart_trace (i : Inst) (f : Uart → Uart) (s : State) : (updUart i f s).trace = s.trace := rfl
@[simp] theorem updUart_hostCmds (i : Inst) (f : Uart → Uart) (s : State) : (updUart i f s).hostCmds = s.hostCmds := rfl
@[simp] theorem updUart_hostRst (i : Inst) (f : Uart → Uart) (s : State) : (updUart i f s).hostRst = s.hostRst := rfl
@[simp] theorem updUart_draws (i : Inst) (f : Uart → Uart) (s : State) : (updUart i f s).draws = s.draws := rfl
@[simp] theorem updUart_pinLog (i : Inst) (f : Uart → Uart) (s : State) : (updUart i f s).pinLog = s.pinLog := rfl

@[simp] theorem setClken_work (v : BitVec 4) (s : State) : (setClken v s).work = s.work := rfl
@[simp] theorem setClken_pc (v : BitVec 4) (s : State) : (setClken v s).pc = s.pc := rfl
@[simp] theorem setClken_fcode (v : BitVec 4) (s : State) : (setClken v s).fcode = s.fcode := rfl
@[simp] theorem setClken_configured (v : BitVec 4) (s : State) : (setClken v s).configured = s.configured := rfl
@[simp] theorem setClken_uart (v : BitVec 4) (s : State) : (setClken v s).uart = s.uart := rfl
@[simp] theorem setClken_clken (v : BitVec 4) (s : State) : (setClken v s).clken = s.clken ||| v := rfl
@[simp] theorem setClken_stable (v : BitVec 4) (s : State) : (setClken v s).stable = s.stable &&& ~~~(v &&& ~~~s.clken) := rfl
@[simp] theorem setClken_trace (v : BitVec 4) (s : State) : (setClken v s).trace = s.trace := rfl
@[simp] theorem setClken_hostCmds (v : BitVec 4) (s : State) : (setClken v s).hostCmds = s.hostCmds := rfl
@[simp] theorem setClken_hostRst (v : BitVec 4) (s : State) : (setClken v s).hostRst = s.hostRst := rfl
@[simp] theorem setClken_draws (v : BitVec 4) (s : State) : (setClken v s).draws = s.draws := rfl
@[simp] theorem setClken_pinLog (v : BitVec 4) (s : State) : (setClken v s).pinLog = s.pinLog := rfl

@[simp] theorem barrier_work (s : State) : (barrier s).work = s.work := rfl
@[simp] theorem barrier_pc (s : State) : (barrier s).pc = s.pc := rfl
@[simp] theorem barrier_fcode (s : State) : (barrier s).fcode = s.fcode := rfl
@[simp] theorem barrier_configured (s : State) : (barrier s).configured = s.configured := rfl
@[simp] theorem barrier_uart (s : State) : (barrier s).uart = s.uart := rfl
@[simp] theorem barrier_clken (s : State) : (barrier s).clken = s.clken := rfl
@[simp] theorem barrier_stable (s : State) : (barrier s).stable = s.stable ||| s.clken := rfl
@[simp] theorem barrier_trace (s : State) : (barrier s).trace = s.trace := rfl
@[simp] theorem barrier_hostCmds (s : State) : (barrier s).hostCmds = s.hostCmds := rfl
@[simp] theorem barrier_hostRst (s : State) : (barrier s).hostRst = s.hostRst := rfl
@[simp] theorem barrier_draws (s : State) : (barrier s).draws = s.draws := rfl
@[simp] theorem barrier_pinLog (s : State) : (barrier s).pinLog = s.pinLog := rfl

@[simp] theorem requestPins_work (v : BitVec 4) (s : State) : (requestPins v s).work = s.work := rfl
@[simp] theorem requestPins_pc (v : BitVec 4) (s : State) : (requestPins v s).pc = s.pc := rfl
@[simp] theorem requestPins_fcode (v : BitVec 4) (s : State) : (requestPins v s).fcode = s.fcode := rfl
@[simp] theorem requestPins_configured (v : BitVec 4) (s : State) : (requestPins v s).configured = s.configured := rfl
@[simp] theorem requestPins_uart (v : BitVec 4) (s : State) : (requestPins v s).uart = s.uart := rfl
@[simp] theorem requestPins_clken (v : BitVec 4) (s : State) : (requestPins v s).clken = s.clken := rfl
@[simp] theorem requestPins_stable (v : BitVec 4) (s : State) : (requestPins v s).stable = s.stable := rfl
@[simp] theorem requestPins_trace (v : BitVec 4) (s : State) : (requestPins v s).trace = s.trace := rfl
@[simp] theorem requestPins_hostCmds (v : BitVec 4) (s : State) : (requestPins v s).hostCmds = s.hostCmds := rfl
@[simp] theorem requestPins_hostRst (v : BitVec 4) (s : State) : (requestPins v s).hostRst = s.hostRst := rfl
@[simp] theorem requestPins_draws (v : BitVec 4) (s : State) : (requestPins v s).draws = s.draws := rfl
@[simp] theorem requestPins_pinLog (v : BitVec 4) (s : State) : (requestPins v s).pinLog = s.pinLog ++ [v] := rfl

@[simp] theorem addTxn_work (e : Txn) (s : State) : (addTxn e s).work = s.work := rfl
@[simp] theorem addTxn_pc (e : Txn) (s : State) : (addTxn e s).pc = s.pc := rfl
@[simp] theorem addTxn_fcode (e : Txn) (s : State) : (addTxn e s).fcode = s.fcode := rfl
@[simp] theorem addTxn_configured (e : Txn) (s : State) : (addTxn e s).configured = s.configured := rfl
@[simp] theorem addTxn_uart (e : Txn) (s : State) : (addTxn e s).uart = s.uart := rfl
@[simp] theorem addTxn_clken (e : Txn) (s : State) : (addTxn e s).clken = s.clken := rfl
@[simp] theorem addTxn_stable (e : Txn) (s : State) : (addTxn e s).stable = s.stable := rfl
@[simp] theorem addTxn_trace (e : Txn) (s : State) : (addTxn e s).trace = s.trace ++ [e] := rfl
@[simp] theorem addTxn_hostCmds (e : Txn) (s : State) : (addTxn e s).hostCmds = s.hostCmds := rfl
@[simp] theorem addTxn_hostRst (e : Txn) (s : State) : (addTxn e s).hostRst = s.hostRst := rfl
@[simp] theorem addTxn_draws (e : Txn) (s : State) : (addTxn e s).draws = s.draws := rfl
@[simp] theorem addTxn_pinLog (e : Txn) (s : State) : (addTxn e s).pinLog = s.pinLog := rfl

@[simp] theorem latch_work (w : WorkRegs) (s : State) : (latch w s).work = w := rfl
@[simp] theorem latch_pc (w : WorkRegs) (s : State) : (latch w s).pc = 0 := rfl
@[simp] theorem latch_fcode (w : WorkRegs) (s : State) : (latch w s).fcode = s.fcode := rfl
@[simp] theorem latch_configured (w : WorkRegs) (s : State) : (latch w s).configured = s.configured.set w.inst false := rfl
@[simp] theorem latch_uart (w : WorkRegs) (s : State) : (latch w s).uart = s.uart := rfl
@[simp] theorem latch_clken (w : WorkRegs) (s : State) : (latch w s).clken = s.clken := rfl
@[simp] theorem latch_stable (w : WorkRegs) (s : State) : (latch w s).stable = s.stable := rfl
@[simp] theorem latch_trace (w : WorkRegs) (s : State) : (latch w s).trace = s.trace := rfl
@[simp] theorem latch_hostCmds (w : WorkRegs) (s : State) : (latch w s).hostCmds = s.hostCmds := rfl
@[simp] theorem latch_hostRst (w : WorkRegs) (s : State) : (latch w s).hostRst = s.hostRst := rfl
@[simp] theorem latch_draws (w : WorkRegs) (s : State) : (latch w s).draws = s.draws := rfl
@[simp] theorem latch_pinLog (w : WorkRegs) (s : State) : (latch w s).pinLog = s.pinLog := rfl

@[simp] theorem resetStep_work (s : State) : (resetStep s).work = State.reset.work := rfl
@[simp] theorem resetStep_pc (s : State) : (resetStep s).pc = State.reset.pc := rfl
@[simp] theorem resetStep_fcode (s : State) : (resetStep s).fcode = State.reset.fcode := rfl
@[simp] theorem resetStep_configured (s : State) : (resetStep s).configured = State.reset.configured := rfl
@[simp] theorem resetStep_uart (s : State) : (resetStep s).uart = State.reset.uart := rfl
@[simp] theorem resetStep_clken (s : State) : (resetStep s).clken = State.reset.clken := rfl
@[simp] theorem resetStep_stable (s : State) : (resetStep s).stable = State.reset.stable := rfl
@[simp] theorem resetStep_trace (s : State) : (resetStep s).trace = State.reset.trace := rfl
@[simp] theorem resetStep_hostCmds (s : State) : (resetStep s).hostCmds = s.hostCmds := rfl
@[simp] theorem resetStep_hostRst (s : State) : (resetStep s).hostRst = s.hostRst.tail := rfl
@[simp] theorem resetStep_draws (s : State) : (resetStep s).draws = s.draws := rfl
@[simp] theorem resetStep_pinLog (s : State) : (resetStep s).pinLog = s.pinLog := rfl

end Sys2Proof.Machine
end

