-- ==== Sys2Proof/Laws/Ops.lean ====
section
/-! SUPPORT. What each shared operation can do, once: the register map, the guards, MemRead, MemWrite, the micro-op write. -/

namespace Sys2Proof.Machine

/-- The register map and the register numbers agree (R41). -/
@[simp] theorem ofNumber_number (r : Reg) : Reg.ofNumber r.number = some r := by
  cases r with
  | ibrd i => cases i <;> rfl
  | fbrd i => cases i <;> rfl
  | lcrh i => cases i <;> rfl
  | ctl i => cases i <;> rfl
  | clken => rfl
  | clkstat => rfl
  | status => rfl
  | pinreq => rfl

/-- A number selects a register only if it is that register's number. -/
theorem number_of_ofNumber {rn : RegNum} {r : Reg} (h : Reg.ofNumber rn = some r) : r.number = rn := by
  have all : ∀ rn : RegNum, (Reg.ofNumber rn).all fun r => r.number == rn := by decide
  have := all rn
  rw [h] at this
  simpa using this

/-- MemWrite of a writable register in its own width (R45). -/
theorem memWrite_number (r : Reg) (hw : r.access = .write) (v : BitVec r.width) (s : State) :
    memWrite r.number r.width v s =
      guarded (writeGuard r v s) (addTxn (.wr r.number (v.setWidth 32)) (store r v s)) := by
  simp [memWrite, hw]

theorem memWrite_ibrd (i : Inst) (v : BitVec 16) (s : State) :
    memWrite (uartRn i 0) 16 v s = guarded (configGuard i (uartRn i 0) s)
      (addTxn (.wr (uartRn i 0) (v.setWidth 32)) (updUart i (fun u => { u with ibrd := some v }) s)) := by
  refine (memWrite_number (.ibrd i) rfl v s).trans ?_
  simp only [store, writeGuard, Reg.width, BitVec.setWidth_eq]
  rfl

theorem memWrite_fbrd (i : Inst) (v : BitVec 6) (s : State) :
    memWrite (uartRn i 1) 6 v s = guarded (configGuard i (uartRn i 1) s)
      (addTxn (.wr (uartRn i 1) (v.setWidth 32)) (updUart i (fun u => { u with fbrd := some v }) s)) := by
  refine (memWrite_number (.fbrd i) rfl v s).trans ?_
  simp only [store, writeGuard, Reg.width, BitVec.setWidth_eq]
  rfl

theorem memWrite_lcrh (i : Inst) (v : BitVec 8) (s : State) :
    memWrite (uartRn i 2) 8 v s = guarded (configGuard i (uartRn i 2) s)
      (addTxn (.wr (uartRn i 2) (v.setWidth 32)) (updUart i (fun u => { u with lcrh := some v }) s)) := by
  refine (memWrite_number (.lcrh i) rfl v s).trans ?_
  simp only [store, writeGuard, Reg.width, BitVec.setWidth_eq]
  rfl

theorem memWrite_ctl (i : Inst) (v : BitVec 10) (s : State) :
    memWrite (uartRn i 3) 10 v s = guarded (ctlGuard i (uartRn i 3) s)
      (addTxn (.wr (uartRn i 3) (v.setWidth 32)) (updUart i (fun u => { u with ctl := some v }) s)) := by
  refine (memWrite_number (.ctl i) rfl v s).trans ?_
  simp only [store, writeGuard, Reg.width, BitVec.setWidth_eq]
  rfl

theorem memWrite_clken (v : BitVec 4) (s : State) :
    memWrite 0x10 4 v s = .done (addTxn (.wr 0x10 (v.setWidth 32)) (setClken v s)) := by
  refine (memWrite_number .clken rfl v s).trans ?_
  simp only [store, writeGuard, Reg.width, BitVec.setWidth_eq]
  rfl

theorem memWrite_pinreq (v : BitVec 4) (s : State) :
    memWrite 0x13 4 v s = guarded (pinGuard v s) (addTxn (.wr 0x13 (v.setWidth 32)) (requestPins v s)) := by
  refine (memWrite_number .pinreq rfl v s).trans ?_
  simp only [store, writeGuard, Reg.width, BitVec.setWidth_eq]
  rfl

/-- MemRead of CLKSTAT (R44, R55). -/
theorem memRead_clkstat (s : State) :
    memRead 0x11 32 s =
      .done (Config.clkstat s.draws, addTxn (.rd 0x11) { barrier s with draws := s.draws + 1 }) := by
  have h : Reg.ofNumber 0x11 = some .clkstat := by decide
  rw [memRead, h]
  simp only [Reg.access, Reg.width, and_self, if_true, BitVec.setWidth_eq]

/-- The next state of a guarded micro-op: its fault taken from `s` if the guard fails, else `t`. -/
def settle (g : Option Cause) (s t : State) : State := g.elim t fun f => raise f s

@[simp] theorem settle_none (s t : State) : settle none s t = t := rfl

@[simp] theorem settle_some (f : Cause) (s t : State) : settle (some f) s t = raise f s := rfl

theorem conclude_guarded (after : State → State) (s t : State) (g : Option Cause) :
    conclude after s (guarded g t) = .next (settle g s (after t)) := by
  cases g <;> rfl

/-- A micro-op write that answers a next state took a fault of its register's guard, or performed the write and moved on. -/
theorem microWrite_next {rn : RegNum} {n : Nat} {v : BitVec n} {after : State → State} {s t : State}
    (h : microWrite rn n v after s = .next t) :
    ∃ r, Reg.ofNumber rn = some r ∧
      ((∃ f, writeGuard r v s = some f ∧ t = raise f s) ∨
        (writeGuard r v s = none ∧ t = after (addTxn (.wr rn (v.setWidth 32)) (store r v s)))) := by
  unfold microWrite memWrite at h
  split at h
  · cases h
  · rename_i r hr
    refine ⟨r, hr, ?_⟩
    split at h
    · rw [conclude_guarded] at h
      cases hg : writeGuard r v s with
      | some f => rw [hg] at h; cases h; exact .inl ⟨f, rfl, rfl⟩
      | none => rw [hg] at h; cases h; exact .inr ⟨rfl, rfl⟩
    · cases h

/-- The instance PINREQ's guard looks at is the one in the request (R50, R70). -/
@[simp] theorem pinRequest_inst (i : Inst) : Inst.ofBit ((pinRequest i).extractLsb' 0 1) = i := by
  cases i <;> rfl

theorem configGuard_none {i : Inst} {rn : RegNum} {s : State} :
    configGuard i rn s = none ↔ clockOk i s = true ∧ uartOff i s = true := by
  unfold configGuard
  split
  · split <;> simp_all
  · simp_all

theorem ctlGuard_none {i : Inst} {rn : RegNum} {s : State} : ctlGuard i rn s = none ↔ clockOk i s = true := by
  unfold ctlGuard
  split <;> simp_all

theorem pinGuard_none {i : Inst} {s : State} : pinGuard (pinRequest i) s = none ↔ pinClockOk i s = true := by
  unfold pinGuard
  rw [pinRequest_inst]
  split <;> simp_all

end Sys2Proof.Machine
end

