-- ==== Sys2Proof/Laws/Exec.lean ====
section
/-! SUPPORT. What each instruction can do and what a step can do, once; proofs about runs cite these and unfold nothing. -/

namespace Sys2Proof.Machine

/-- INIT answers a next state on all operands: BadParity, BadBaud, or latch and start. -/
theorem execInit_cases (inst : Inst) (hse : Sampling) (stp2 : StopBits) (par wlen : BitVec 2) (baud : BitVec 20)
    (s : State) :
    (Parity.ofCode par = none ∧ ∃ c, execInit inst hse stp2 par wlen baud s = .next (raise (.badParity c) s)) ∨
    (Config.baudSet baud = false ∧ ∃ c, execInit inst hse stp2 par wlen baud s = .next (raise (.badBaud c) s)) ∨
    (∃ p, Parity.ofCode par = some p ∧ Config.baudSet baud = true ∧
      execInit inst hse stp2 par wlen baud s =
        .next (latch { baud := baud, wlen := wlen, par := p, stp2 := stp2, hse := hse, inst := inst } s)) := by
  unfold execInit initWith
  split
  · exact .inl ⟨by assumption, _, rfl⟩
  · rename_i p hp
    split
    · exact .inr (.inr ⟨p, hp, by assumption, rfl⟩)
    · exact .inr (.inl ⟨by simp_all, _, rfl⟩)

theorem execClku_eq (s : State) :
    execClku s =
      .next (setPc 1 (addTxn (.wr 0x10 ((uclkMask s.work.inst).setWidth 32)) (setClken (uclkMask s.work.inst) s))) := by
  simp only [execClku, microWrite, memWrite_clken, conclude]

theorem execClkp_eq (s : State) :
    execClkp s =
      .next (setPc 2 (addTxn (.wr 0x10 ((pclkMask s.work.inst).setWidth 32)) (setClken (pclkMask s.work.inst) s))) := by
  simp only [execClkp, microWrite, memWrite_clken, conclude]

theorem execBarr_eq (s : State) :
    execBarr s = .next (setPc 3 (addTxn (.rd 0x11) { barrier s with draws := s.draws + 1 })) := by
  simp only [execBarr, memRead_clkstat]

theorem execDis_eq (s : State) :
    execDis s = .next (settle (ctlGuard s.work.inst (uartRn s.work.inst 3) s) s (setPc 4 (addTxn (.wr (uartRn s.work.inst 3) ((ctlOff s.work.hse).setWidth 32))
      (updUart s.work.inst (fun u => { u with ctl := some (ctlOff s.work.hse) }) s)))) := by
  simp only [execDis, microWrite, memWrite_ctl, conclude_guarded]

theorem execEna_eq (s : State) :
    execEna s = .next (settle (ctlGuard s.work.inst (uartRn s.work.inst 3) s) s (complete (addTxn (.wr (uartRn s.work.inst 3) ((ctlOn s.work.hse).setWidth 32))
      (updUart s.work.inst (fun u => { u with ctl := some (ctlOn s.work.hse) }) s)))) := by
  simp only [execEna, microWrite, memWrite_ctl, conclude_guarded]

theorem execWlcrh_eq (s : State) :
    execWlcrh s = .next (settle (configGuard s.work.inst (uartRn s.work.inst 2) s) s (setPc 7 (addTxn (.wr (uartRn s.work.inst 2) ((lcgen s.work.wlen s.work.par s.work.stp2).setWidth 32))
      (updUart s.work.inst (fun u => { u with lcrh := some (lcgen s.work.wlen s.work.par s.work.stp2) }) s)))) := by
  simp only [execWlcrh, microWrite, memWrite_lcrh, conclude_guarded]

theorem execWibrd_eq {s : State} {p : BitVec 16 × BitVec 6}
    (hp : divgen Config.refHz s.work.baud s.work.hse = some p) :
    execWibrd s = .next (settle (configGuard s.work.inst (uartRn s.work.inst 0) s) s (setPc 5 (addTxn (.wr (uartRn s.work.inst 0) ((p.1).setWidth 32))
      (updUart s.work.inst (fun u => { u with ibrd := some (p.1) }) s)))) := by
  simp only [execWibrd, hp, microWrite, memWrite_ibrd, conclude_guarded]

theorem execWfbrd_eq {s : State} {p : BitVec 16 × BitVec 6}
    (hp : divgen Config.refHz s.work.baud s.work.hse = some p) :
    execWfbrd s = .next (settle (configGuard s.work.inst (uartRn s.work.inst 1) s) s (setPc 6 (addTxn (.wr (uartRn s.work.inst 1) ((p.2).setWidth 32))
      (updUart s.work.inst (fun u => { u with fbrd := some (p.2) }) s)))) := by
  simp only [execWfbrd, hp, microWrite, memWrite_fbrd, conclude_guarded]

/-- DIVGEN has no value exactly at baud 0 (R86). -/
theorem divgen_none {ref : Nat} {baud : BitVec 20} {hse : Sampling} : divgen ref baud hse = none ↔ baud = 0 := by
  simp [divgen]

/-- Without a DIVGEN value a divisor write takes its guard's fault or is refused. -/
theorem execWibrd_none {s : State} (hb : s.work.baud = 0) :
    execWibrd s = noDivisor (.ibrd s.work.inst) s := by
  simp only [execWibrd, divgen_none.mpr hb]

theorem execWfbrd_none {s : State} (hb : s.work.baud = 0) :
    execWfbrd s = noDivisor (.fbrd s.work.inst) s := by
  simp only [execWfbrd, divgen_none.mpr hb]

theorem noDivisor_next {r : Reg} {s t : State} (h : noDivisor r s = .next t) :
    ∃ f, writeGuard r (0 : BitVec 16) s = some f ∧ t = raise f s := by
  unfold noDivisor at h
  split at h
  · rename_i f hf; cases h; exact ⟨f, hf, rfl⟩
  · cases h

theorem execPins_eq (s : State) :
    execPins s = .next (settle (pinGuard (pinRequest s.work.inst) s) s (setPc 8 (addTxn (.wr 0x13 ((pinRequest s.work.inst).setWidth 32))
      (requestPins (pinRequest s.work.inst) s)))) := by
  simp only [execPins, microWrite, memWrite_pinreq, conclude_guarded]

theorem settle_cases {g : Option Cause} {s t u : State} (h : settle g s t = u) :
    (∃ f, g = some f ∧ u = raise f s) ∨ (g = none ∧ u = t) := by
  cases g with
  | none => exact .inr ⟨rfl, h.symm⟩
  | some f => exact .inl ⟨f, rfl, h.symm⟩

/-- Everything a micro-op can do, given its code and the next state it answers: take a fault, or its own effect with its
guard holding. -/
theorem exec_micro_next {k : StepCode} {i : Instr} {s t : State} (hd : decodeUstep k = .ok i)
    (h : exec i s = .next t) :
    (3 ≤ k.toNat ∧ k.toNat ≤ 8 ∧ ∃ f, t = raise f s) ∨
    (k = 0 ∧ t = setPc 1 (addTxn (.wr 0x10 ((uclkMask s.work.inst).setWidth 32)) (setClken (uclkMask s.work.inst) s))) ∨
    (k = 1 ∧ t = setPc 2 (addTxn (.wr 0x10 ((pclkMask s.work.inst).setWidth 32)) (setClken (pclkMask s.work.inst) s))) ∨
    (k = 2 ∧ t = setPc 3 (addTxn (.rd 0x11) { barrier s with draws := s.draws + 1 })) ∨
    (k = 3 ∧ clockOk s.work.inst s = true ∧
      t = setPc 4 (addTxn (.wr (uartRn s.work.inst 3) ((ctlOff s.work.hse).setWidth 32))
        (updUart s.work.inst (fun u => { u with ctl := some (ctlOff s.work.hse) }) s))) ∨
    (k = 4 ∧ clockOk s.work.inst s = true ∧ uartOff s.work.inst s = true ∧
      ∃ p, divgen Config.refHz s.work.baud s.work.hse = some p ∧
        t = setPc 5 (addTxn (.wr (uartRn s.work.inst 0) (p.1.setWidth 32))
          (updUart s.work.inst (fun u => { u with ibrd := some p.1 }) s))) ∨
    (k = 5 ∧ clockOk s.work.inst s = true ∧ uartOff s.work.inst s = true ∧
      ∃ p, divgen Config.refHz s.work.baud s.work.hse = some p ∧
        t = setPc 6 (addTxn (.wr (uartRn s.work.inst 1) (p.2.setWidth 32))
          (updUart s.work.inst (fun u => { u with fbrd := some p.2 }) s))) ∨
    (k = 6 ∧ clockOk s.work.inst s = true ∧ uartOff s.work.inst s = true ∧
      t = setPc 7 (addTxn (.wr (uartRn s.work.inst 2) ((lcgen s.work.wlen s.work.par s.work.stp2).setWidth 32))
        (updUart s.work.inst (fun u => { u with lcrh := some (lcgen s.work.wlen s.work.par s.work.stp2) }) s))) ∨
    (k = 7 ∧ pinClockOk s.work.inst s = true ∧
      t = setPc 8 (addTxn (.wr 0x13 ((pinRequest s.work.inst).setWidth 32))
        (requestPins (pinRequest s.work.inst) s))) ∨
    (k = 8 ∧ clockOk s.work.inst s = true ∧
      t = complete (addTxn (.wr (uartRn s.work.inst 3) ((ctlOn s.work.hse).setWidth 32))
        (updUart s.work.inst (fun u => { u with ctl := some (ctlOn s.work.hse) }) s))) := by
  have hk := encode_of_decodeUstep hd
  cases i with
  | init => cases hk
  | initNull => cases hk
  | clku =>
    cases hk
    cases (execClku_eq s).symm.trans h
    exact .inr (.inl ⟨rfl, rfl⟩)
  | clkp =>
    cases hk
    cases (execClkp_eq s).symm.trans h
    exact .inr (.inr (.inl ⟨rfl, rfl⟩))
  | barr =>
    cases hk
    cases (execBarr_eq s).symm.trans h
    exact .inr (.inr (.inr (.inl ⟨rfl, rfl⟩)))
  | dis =>
    cases hk
    rcases settle_cases (Host.Outcome.next.inj ((execDis_eq s).symm.trans h)) with ⟨f, -, hf⟩ | ⟨hg, ht⟩
    · exact .inl ⟨by decide, by decide, f, hf⟩
    · exact .inr (.inr (.inr (.inr (.inl ⟨rfl, ctlGuard_none.mp hg, ht⟩))))
  | wibrd =>
    cases hk
    by_cases hb : s.work.baud = 0
    · obtain ⟨f, -, hf⟩ := noDivisor_next ((execWibrd_none hb).symm.trans h)
      exact .inl ⟨by decide, by decide, f, hf⟩
    · obtain ⟨p, hp⟩ := Option.ne_none_iff_exists'.mp (mt divgen_none.mp hb)
      rcases settle_cases (Host.Outcome.next.inj ((execWibrd_eq hp).symm.trans h)) with ⟨f, -, hf⟩ | ⟨hg, ht⟩
      · exact .inl ⟨by decide, by decide, f, hf⟩
      · have hg := configGuard_none.mp hg
        exact .inr (.inr (.inr (.inr (.inr (.inl ⟨rfl, hg.1, hg.2, p, hp, ht⟩)))))
  | wfbrd =>
    cases hk
    by_cases hb : s.work.baud = 0
    · obtain ⟨f, -, hf⟩ := noDivisor_next ((execWfbrd_none hb).symm.trans h)
      exact .inl ⟨by decide, by decide, f, hf⟩
    · obtain ⟨p, hp⟩ := Option.ne_none_iff_exists'.mp (mt divgen_none.mp hb)
      rcases settle_cases (Host.Outcome.next.inj ((execWfbrd_eq hp).symm.trans h)) with ⟨f, -, hf⟩ | ⟨hg, ht⟩
      · exact .inl ⟨by decide, by decide, f, hf⟩
      · have hg := configGuard_none.mp hg
        exact .inr (.inr (.inr (.inr (.inr (.inr (.inl ⟨rfl, hg.1, hg.2, p, hp, ht⟩))))))
  | wlcrh =>
    cases hk
    rcases settle_cases (Host.Outcome.next.inj ((execWlcrh_eq s).symm.trans h)) with ⟨f, -, hf⟩ | ⟨hg, ht⟩
    · exact .inl ⟨by decide, by decide, f, hf⟩
    · have hg := configGuard_none.mp hg
      exact .inr (.inr (.inr (.inr (.inr (.inr (.inr (.inl ⟨rfl, hg.1, hg.2, ht⟩)))))))
  | pins =>
    cases hk
    rcases settle_cases (Host.Outcome.next.inj ((execPins_eq s).symm.trans h)) with ⟨f, -, hf⟩ | ⟨hg, ht⟩
    · exact .inl ⟨by decide, by decide, f, hf⟩
    · exact .inr (.inr (.inr (.inr (.inr (.inr (.inr (.inr (.inl ⟨rfl, pinGuard_none.mp hg, ht⟩))))))))
  | ena =>
    cases hk
    rcases settle_cases (Host.Outcome.next.inj ((execEna_eq s).symm.trans h)) with ⟨f, -, hf⟩ | ⟨hg, ht⟩
    · exact .inl ⟨by decide, by decide, f, hf⟩
    · exact .inr (.inr (.inr (.inr (.inr (.inr (.inr (.inr (.inr ⟨rfl, ctlGuard_none.mp hg, ht⟩))))))))

/-- Everything the acceptance of a word can do. -/
theorem exec_cmd_next {c : CmdWord} {i : Instr} {s t : State} (hd : decodeCmd c = .ok i) (h : exec i s = .next t) :
    t = s ∨ (∃ f, (f.fcode = 2 ∨ f.fcode = 3) ∧ t = raise f s) ∨
      (∃ w : WorkRegs, Config.baudSet w.baud = true ∧ t = latch w s) := by
  rcases decodeCmd_ok hd with ⟨x, rfl⟩ | ⟨a, b, d, p, w, q, rfl⟩
  · cases h; exact .inl rfl
  · rcases execInit_cases a b d p w q s with ⟨-, c, he⟩ | ⟨-, c, he⟩ | ⟨par, -, hb, he⟩
    · cases he.symm.trans h; exact .inr (.inl ⟨_, .inl rfl, rfl⟩)
    · cases he.symm.trans h; exact .inr (.inl ⟨_, .inr rfl, rfl⟩)
    · cases he.symm.trans h; exact .inr (.inr ⟨_, hb, rfl⟩)

/-- The enabled step of a reset, an accept and a micro-op, from the state. -/
theorem nextMove_reset {s : State} (h : rstNow s = true) : nextMove s = .reset := by
  simp [nextMove, h]

theorem nextMove_accept {s : State} {c : CmdWord} {rest : List CmdWord} (hr : rstNow s = false) (hp : s.pc = 15)
    (hc : s.hostCmds = c :: rest) : nextMove s = .accept c := by
  simp [nextMove, hr, hp, hc]

theorem nextMove_ustep {s : State} (hr : rstNow s = false) (h15 : s.pc ≠ 15) (h14 : s.pc ≠ 14) :
    nextMove s = .ustep s.pc := by
  simp only [nextMove, hr, h15, h14, if_false, Bool.false_eq_true]

/-- What the state was, from the enabled step. -/
theorem nextMove_cases (s : State) :
    (nextMove s = .reset ∧ rstNow s = true) ∨
    (rstNow s = false ∧ s.pc = 15 ∧ ∃ c rest, s.hostCmds = c :: rest ∧ nextMove s = .accept c) ∨
    (rstNow s = false ∧ s.pc = 15 ∧ s.hostCmds = [] ∧ nextMove s = .wait) ∨
    (rstNow s = false ∧ s.pc = 14 ∧ ((s.hostRst.any id = true ∧ nextMove s = .wait) ∨
      (s.hostRst.any id = false ∧ nextMove s = .stuck))) ∨
    (rstNow s = false ∧ s.pc ≠ 15 ∧ s.pc ≠ 14 ∧ nextMove s = .ustep s.pc) := by
  cases hr : rstNow s
  · by_cases h15 : s.pc = 15
    · cases hc : s.hostCmds with
      | nil => simp [nextMove, hr, h15, hc]
      | cons c rest => simp [nextMove, hr, h15, hc]
    · by_cases h14 : s.pc = 14
      · cases ha : s.hostRst.any id <;> simp [nextMove, hr, h14, ha]
      · exact .inr (.inr (.inr (.inr ⟨rfl, h15, h14, nextMove_ustep hr h15 h14⟩)))
  · simp [nextMove, hr]

/-- Everything a step that answers a next state can have been, with what the state was: a reset; an accepted word; a micro-op; or nothing but the reset schedule. -/
theorem step_cases {s t : State} (h : step s = .next t) :
    (rstNow s = true ∧ t = resetStep s) ∨
    (rstNow s = false ∧ s.pc = 15 ∧ s.hostCmds ≠ [] ∧
      (t = takeWord s ∨ (∃ f, (f.fcode = 1 ∨ f.fcode = 2 ∨ f.fcode = 3) ∧ t = raise f (takeWord s)) ∨
        (∃ w : WorkRegs, Config.baudSet w.baud = true ∧ t = latch w (takeWord s)))) ∨
    (rstNow s = false ∧ ∃ i, decodeUstep s.pc = .ok i ∧ exec i (tick s) = .next t) ∨
    (rstNow s = false ∧ (s.pc = 15 ∧ s.hostCmds = [] ∨ s.pc = 14) ∧ t = tick s) := by
  rcases nextMove_cases s with ⟨hm, hr⟩ | ⟨hr, hp, c, rest, hl, hm⟩ | ⟨hr, hp, hl, hm⟩ | ⟨hr, hp, ⟨-, hm⟩ | ⟨-, hm⟩⟩ |
    ⟨hr, -, -, hm⟩ <;> simp only [step, hm] at h
  · cases h; exact .inl ⟨hr, rfl⟩
  · refine .inr (.inl ⟨hr, hp, by simp [hl], ?_⟩)
    split at h
    · rename_i i hi
      rcases exec_cmd_next hi h with h | ⟨f, hf, h⟩ | h
      · exact .inl h
      · exact .inr (.inl ⟨f, .inr hf, h⟩)
      · exact .inr (.inr h)
    · cases h; exact .inr (.inl ⟨_, .inl rfl, rfl⟩)
  · cases h; exact .inr (.inr (.inr ⟨hr, .inl ⟨hp, hl⟩, rfl⟩))
  · cases h; exact .inr (.inr (.inr ⟨hr, .inr hp, rfl⟩))
  · cases h
  · split at h
    · rename_i i hi; exact .inr (.inr (.inl ⟨hr, i, hi, h⟩))
    · cases h

end Sys2Proof.Machine
end

