-- ==== Sys2Proof/Laws/PerInstr.lean ====
section
/-! SUPPORT. Statements for all instructions as syntax, one lemma for each constructor. -/

namespace Sys2Proof.Laws.MatchesRow

/-- Match, mask and width of an instruction's row in spec/opcode_table.json. -/
def row : Instr → Nat × Nat × Nat
  | .init .. => (0x18000000, 0xF8000000, 32)
  | .initNull _ => (0x10000000, 0xF8000000, 32)
  | .clku => (0x0, 0xF, 4)
  | .clkp => (0x1, 0xF, 4)
  | .barr => (0x2, 0xF, 4)
  | .dis => (0x3, 0xF, 4)
  | .wibrd => (0x4, 0xF, 4)
  | .wfbrd => (0x5, 0xF, 4)
  | .wlcrh => (0x6, 0xF, 4)
  | .pins => (0x7, 0xF, 4)
  | .ena => (0x8, 0xF, 4)

/-- A code fits a row: it has the row's width, and its bits under the mask are the match. -/
def fits (r : Nat × Nat × Nat) : Code → Bool
  | .cmd w => r.2.2 == 32 && (w &&& BitVec.ofNat 32 r.2.1) == BitVec.ofNat 32 r.1
  | .ustep k => r.2.2 == 4 && (k &&& BitVec.ofNat 4 r.2.1) == BitVec.ofNat 4 r.1

/-- The encoding of an instruction fits its row of the opcode table, and that of no other row. -/
def Statement (i : Instr) : Prop :=
  fits (row i) (encode i) = true ∧ ∀ j : Instr, fits (row j) (encode i) = true → row j = row i

/-- A command word under the mask of its two rows is its top five bits followed by zeros. -/
theorem mask_append (a : BitVec 5) (b : BitVec 27) :
    (a ++ b : BitVec 32) &&& 0xF8000000#32 = a ++ (0 : BitVec 27) := by
  have hm : (0xF8000000#32 : BitVec 32) = (BitVec.allOnes 5 ++ (0 : BitVec 27) : BitVec 32) := rfl
  rw [hm, BitVec.and_append, BitVec.and_allOnes]
  exact congrArg (a ++ ·) BitVec.and_zero

theorem initWord_append (inst : Inst) (hse : Sampling) (stp2 : StopBits) (par wlen : BitVec 2) (baud : BitVec 20) :
    ∃ b : BitVec 27, initWord inst hse stp2 par wlen baud = ((3 : BitVec 5) ++ b : BitVec 32) := by
  refine ⟨inst.bit ++ hse.bit ++ stp2.bit ++ par ++ wlen ++ baud, ?_⟩
  have h : (3 : BitVec 5) = ((1 : BitVec 4) ++ (1 : BitVec 1) : BitVec 5) := rfl
  rw [h]
  apply BitVec.eq_of_toNat_eq
  simp only [initWord, BitVec.toNat_append, Nat.shiftLeft_or_distrib, ← Nat.shiftLeft_add, Nat.or_assoc]

theorem nullWord_append (b : BitVec 27) : nullWord b = ((2 : BitVec 5) ++ b : BitVec 32) := by
  have h : (2 : BitVec 5) = ((1 : BitVec 4) ++ (0 : BitVec 1) : BitVec 5) := rfl
  rw [h]
  rfl

/-- Whether a command word fits a row is settled by its top five bits. -/
theorem fits_cmd (r : Nat × Nat × Nat) (hr : r.2.1 = 0xF8000000) (a : BitVec 5) (b : BitVec 27) :
    fits r (.cmd (a ++ b : BitVec 32)) = (r.2.2 == 32 && (a ++ (0 : BitVec 27) : BitVec 32) == BitVec.ofNat 32 r.1) := by
  simp only [fits, hr]
  rw [show BitVec.ofNat 32 0xF8000000 = 0xF8000000#32 from rfl, mask_append]

theorem fits_three (b : BitVec 27) (j : Instr) (h : fits (row j) (.cmd ((3 : BitVec 5) ++ b : BitVec 32)) = true) :
    row j = (0x18000000, 0xF8000000, 32) := by
  cases j with
  | init => rfl
  | initNull x => rw [fits_cmd _ rfl] at h; exact absurd h (show ¬ (false = true) by decide)
  | _ => exact absurd h (show ¬ (false = true) by decide)

theorem fits_two (b : BitVec 27) (j : Instr) (h : fits (row j) (.cmd ((2 : BitVec 5) ++ b : BitVec 32)) = true) :
    row j = (0x10000000, 0xF8000000, 32) := by
  cases j with
  | init => rw [fits_cmd _ rfl] at h; exact absurd h (show ¬ (false = true) by decide)
  | initNull x => rfl
  | _ => exact absurd h (show ¬ (false = true) by decide)

theorem init (inst : Inst) (hse : Sampling) (stp2 : StopBits) (par wlen : BitVec 2) (baud : BitVec 20) :
    Statement (.init inst hse stp2 par wlen baud) := by
  obtain ⟨b, hb⟩ := initWord_append inst hse stp2 par wlen baud
  simp only [Statement, encode, hb]
  exact ⟨(fits_cmd _ rfl 3 b).trans rfl, fun j hj => fits_three b j hj⟩

theorem initNull (ignored : BitVec 27) : Statement (.initNull ignored) := by
  simp only [Statement, encode, nullWord_append]
  exact ⟨(fits_cmd _ rfl 2 ignored).trans rfl, fun j hj => fits_two ignored j hj⟩

/-- A micro-op's code fits only its own row. -/
theorem ustep_only (i : Instr) (k : StepCode) (hk : row i = (k.toNat, 0xF, 4)) (j : Instr)
    (h : fits (row j) (.ustep k) = true) : row j = row i := by
  rw [hk]
  revert h
  revert k
  cases j <;> intro k hk h
  · exact absurd h (show ¬ (false = true) by decide)
  · exact absurd h (show ¬ (false = true) by decide)
  all_goals
    have e : k &&& BitVec.ofNat 4 0xF = k := BitVec.and_allOnes
    simp only [fits, row, e, Bool.and_eq_true, beq_iff_eq] at h
    rw [h.2]
    rfl

theorem clku : Statement .clku := ⟨by decide, ustep_only .clku 0 rfl⟩
theorem clkp : Statement .clkp := ⟨by decide, ustep_only .clkp 1 rfl⟩
theorem barr : Statement .barr := ⟨by decide, ustep_only .barr 2 rfl⟩
theorem dis : Statement .dis := ⟨by decide, ustep_only .dis 3 rfl⟩
theorem wibrd : Statement .wibrd := ⟨by decide, ustep_only .wibrd 4 rfl⟩
theorem wfbrd : Statement .wfbrd := ⟨by decide, ustep_only .wfbrd 5 rfl⟩
theorem wlcrh : Statement .wlcrh := ⟨by decide, ustep_only .wlcrh 6 rfl⟩
theorem pins : Statement .pins := ⟨by decide, ustep_only .pins 7 rfl⟩
theorem ena : Statement .ena := ⟨by decide, ustep_only .ena 8 rfl⟩

end Sys2Proof.Laws.MatchesRow
end

