-- ==== Sys2Proof/Tests/Slice0.lean ====
section
/-! SUPPORT. Tests and witnesses. Every expected value is written out from spec/: a vector V<n> of spec/95_test_vectors.md, a
table of a rule R<n>, or a hand calculation from the encodings of spec/30_encoding.md. -/

namespace Sys2Proof.Tests
open Sys2Proof Sys2Proof.Machine

/-! ### Small states -/

/-- The next state, if the outcome is one. -/
def nextOf : Result → Option State
  | .next t => some t
  | _ => none

/-- STEP, FCODE and STATUS after an outcome. -/
def after (r : Result) : Option (StepCode × BitVec 4 × BitVec 8) := (nextOf r).map fun t => (t.pc, t.fcode, status t)

/-- The state after reset with a host that presents these words. -/
def presents (ws : List CmdWord) : State := { State.reset with hostCmds := ws }

/-- (9600, 3, 0, 0, 0, 0), the record of the document's scenario. -/
def record1 : WorkRegs := { baud := 9600, wlen := 3, par := .disabled, stp2 := .one, hse := .std, inst := .u1 }

/-- (115200, 2, 2, 1, 1, 1), the record of V77 to V85. -/
def record2 : WorkRegs := { baud := 115200, wlen := 2, par := .even, stp2 := .two, hse := .hs, inst := .u2 }

/-- A state with these working registers, STEP, CLKEN and STABLE. -/
def midway (w : WorkRegs) (k : StepCode) (clken stable : BitVec 4) : State :=
  { State.reset with work := w, pc := k, clken := clken, stable := stable }

/-- The same with CTL of one UART written. -/
def withCtl (i : Inst) (c : BitVec 10) (s : State) : State := updUart i (fun u => { u with ctl := some c }) s

/-- The state of program P1 of 95_test_vectors before its micro-op ENA. -/
def p1BeforeEna : State :=
  { midway record1 8 0b0101 0b0101 with
    uart := { u1 := { ibrd := some 104, fbrd := some 11, lcrh := some 0x70, ctl := some 0 }, u2 := Uart.reset } }

/-! ### Well-formedness (R63, R66, R153) -/

theorem test_wellFormed_ok : (Instr.init .u1 .std .one 0 3 9600).wellFormed = true := by decide
theorem test_wellFormed_par_reserved : (Instr.init .u1 .std .one 3 3 9600).wellFormed = false := by decide
theorem test_wellFormed_baud_low : (Instr.init .u1 .std .one 0 3 2399).wellFormed = false := by decide
theorem test_wellFormed_baud_high : (Instr.init .u1 .std .one 0 3 1000001).wellFormed = false := by decide
theorem test_baudSet_bounds : Config.baudSet 2400 = true ∧ Config.baudSet 1000000 = true ∧ Config.baudSet 0 = false ∧
    Config.baudSet 1048575 = false := by decide
/-- The values taken for the parameters meet R5's constraints. -/
theorem test_parameters_legal : Config.RefHzLegal Config.refHz ∧ Config.BaudSetLegal Config.baudSet := by
  refine ⟨by decide, by decide, by decide, by decide, fun b h => ?_⟩
  simpa [Config.baudSet] using h

/-! ### Decoding -/

/-- R61, bit by bit: OP 0001, V 1, INST 0, HSE 0, STP2 0, PAR 00, WLEN 11, BAUD 9600 (V41). -/
theorem test_decode_init_bits :
    decode (.cmd 0b0001_1_0_0_0_00_11_00000010010110000000) = .ok (.init .u1 .std .one 0 3 9600) := by decide
/-- OP 0001, V 1, INST 1, HSE 1, STP2 1, PAR 10, WLEN 10, BAUD 115200 (V42). -/
theorem test_decode_init_bits_all :
    decode (.cmd 0b0001_1_1_1_1_10_10_00011100001000000000) = .ok (.init .u2 .hs .two 2 2 115200) := by decide
/-- V43 to V47. -/
theorem test_decode_init_vectors :
    decode (.cmd 0x1840098D) = .ok (.init .u1 .std .one 1 0 2445) ∧
    decode (.cmd 0x1C3F4240) = .ok (.init .u2 .std .one 0 3 1000000) ∧
    decode (.cmd 0x1A300960) = .ok (.init .u1 .hs .one 0 3 2400) ∧
    decode (.cmd 0x1D504B00) = .ok (.init .u2 .std .two 1 1 19200) ∧
    decode (.cmd 0x1C303840) = .ok (.init .u2 .std .one 0 3 14400) := by decide
/-- V48 to V52. -/
theorem test_decode_init_extremes :
    decode (.cmd 0x1A3F4240) = .ok (.init .u1 .hs .one 0 3 1000000) ∧
    decode (.cmd 0x1FBF4240) = .ok (.init .u2 .hs .two 2 3 1000000) ∧
    decode (.cmd 0x18000960) = .ok (.init .u1 .std .one 0 0 2400) ∧
    decode (.cmd 0x1860E100) = .ok (.init .u1 .std .one 1 2 57600) ∧
    decode (.cmd 0x1E909600) = .ok (.init .u2 .hs .one 2 1 38400) := by decide
/-- V53 to V55: with CFG_VALID 0 the other 27 bits are ignored. -/
theorem test_decode_null :
    decode (.cmd 0b0001_0_000000000000000000000000000) = .ok (.initNull 0) ∧
    decode (.cmd 0x14000000) = .ok (.initNull 0x4000000) ∧
    decode (.cmd 0x17FFFFFF) = .ok (.initNull 0x7FFFFFF) := by decide
/-- V56 to V59. -/
theorem test_decode_badOpcode :
    decode (.cmd 0x08302580) = .rejected (.badOpcode 0x08302580) ∧
    decode (.cmd 0x28302580) = .rejected (.badOpcode 0x28302580) ∧
    decode (.cmd 0x00000000) = .rejected (.badOpcode 0) ∧
    decode (.cmd 0xF0000000) = .rejected (.badOpcode 0xF0000000) := by decide
/-- R68: one micro-op for each code 0 to 8. -/
theorem test_decode_ustep :
    decode (.ustep 0b0000) = .ok .clku ∧ decode (.ustep 0b0001) = .ok .clkp ∧ decode (.ustep 0b0010) = .ok .barr ∧
    decode (.ustep 0b0011) = .ok .dis ∧ decode (.ustep 0b0100) = .ok .wibrd ∧ decode (.ustep 0b0101) = .ok .wfbrd ∧
    decode (.ustep 0b0110) = .ok .wlcrh ∧ decode (.ustep 0b0111) = .ok .pins ∧ decode (.ustep 0b1000) = .ok .ena := by
  decide
/-- R12, R71: 9 to 13 are no codes, 14 and 15 name no micro-op. -/
theorem test_decode_ustep_none :
    decode (.ustep 9) = .rejected (.reservedStep 9) ∧ decode (.ustep 13) = .rejected (.reservedStep 13) ∧
    decode (.ustep 14) = .rejected (.notMicroOp 14) ∧ decode (.ustep 15) = .rejected (.notMicroOp 15) := by decide
/-- The encoder gives the words of V42, V46 and V54. -/
theorem test_encode :
    encode (.init .u2 .hs .two 2 2 115200) = .cmd 0x1FA1C200 ∧ encode (.init .u2 .std .two 1 1 19200) = .cmd 0x1D504B00 ∧
    encode (.initNull 0x4000000) = .cmd 0x14000000 ∧ encode .ena = .ustep 8 := by decide
/-- R43: the least significant byte at the lowest address. -/
theorem test_bytes :
    cmdBytes 0x18302580 = [0x80, 0x25, 0x30, 0x18] ∧ cmdOfBytes [0x80, 0x25, 0x30, 0x18] = some 0x18302580 ∧
    cmdOfBytes [0x80, 0x25, 0x30] = none := by decide
/-- R43 for a register of 10 bits, CTL = 0x321: byte 0 is whole, and the two bits that byte 1 has are the register's, at every
observation. -/
theorem test_bytes_register (obs : Nat) :
    busByte 0 (0x321 : BitVec 10) 0 = 0x21 ∧ (busByte obs (0x321 : BitVec 10) 1).getLsbD 0 = true ∧
    (busByte obs (0x321 : BitVec 10) 1).getLsbD 1 = true :=
  ⟨by decide, busByte_bit obs (0x321 : BitVec 10) (k := 1) (b := 0) (by decide) (by decide),
    busByte_bit obs (0x321 : BitVec 10) (k := 1) (b := 1) (by decide) (by decide)⟩
/-- The opcode table's numbering: a 32-bit row is a command word, a 4-bit row (one byte) a micro-op code. -/
theorem test_tableWord :
    decodeTableWord 32 0x18302580 = some (.init .u1 .std .one 0 3 9600) ∧ decodeTableWord 32 0x10000000 = some (.initNull 0) ∧
    decodeTableWord 8 4 = some .wibrd ∧ decodeTableWord 4 8 = some .ena ∧ decodeTableWord 8 9 = none ∧
    decodeTableWord 32 0x28302580 = none := by decide
/-- Each kind of row runs as the first instruction after reset: INIT to STEP 0, null to IDLE, CLKU to STEP 1, and WIBRD,
whose clock is off after reset, to FAULT with ClockOff (R117, R118, R121, R154). -/
theorem test_withFetchWord :
    after (step (State.reset.withFetchWord 32 0x18302580)) = some (0, 0, 0x01) ∧
    after (step (State.reset.withFetchWord 32 0x10000000)) = some (15, 0, 0x00) ∧
    after (step (State.reset.withFetchWord 8 0)) = some (1, 0, 0x01) ∧
    after (step (State.reset.withFetchWord 4 4)) = some (14, 4, 0x42) := by decide

/-! ### DIVGEN and LCGEN -/

/-- V1, V2, V4, V9, V13 to V15, V18, V19: the extremes, the document's scenario, no second rounding, the carries. -/
theorem test_divgen :
    divgen 16000000 2400 .std = some (416, 43) ∧ divgen 16000000 2400 .hs = some (833, 21) ∧
    divgen 16000000 9600 .std = some (104, 11) ∧ divgen 16000000 14400 .std = some (69, 28) ∧
    divgen 16000000 2445 .std = some (409, 0) ∧ divgen 16000000 2451 .std = some (408, 0) ∧
    divgen 16000000 668407 .hs = some (3, 0) ∧ divgen 16000000 1000000 .std = some (1, 0) ∧
    divgen 16000000 1000000 .hs = some (2, 0) := by decide
/-- V7, V8, V10, V12, V20, V21, V22, V26: rounding up and down. -/
theorem test_divgen_rounding :
    divgen 16000000 38400 .std = some (26, 3) ∧ divgen 16000000 57600 .std = some (17, 23) ∧
    divgen 16000000 14400 .hs = some (138, 57) ∧ divgen 16000000 115200 .hs = some (17, 23) ∧
    divgen 16000000 921600 .std = some (1, 5) ∧ divgen 16000000 921600 .hs = some (2, 11) ∧
    divgen 16000000 999999 .std = some (1, 0) ∧ divgen 16000000 57600 .hs = some (34, 46) := by decide
/-- V27 to V30: other reference clocks, the zero integer divisor among them; R86: no value at baud 0. -/
theorem test_divgen_refHz :
    divgen 50000000 115200 .std = some (27, 8) ∧ divgen 80000000 9600 .hs = some (1041, 43) ∧
    divgen 1843200 115200 .std = some (1, 0) ∧ divgen 1000000 115200 .std = some (0, 35) ∧
    divgen 16000000 0 .std = none := by decide
/-- V31 to V40. -/
theorem test_lcgen :
    lcgen 3 .disabled .one = 0x70 ∧ lcgen 0 .disabled .one = 0x10 ∧ lcgen 3 .even .two = 0x7E ∧ lcgen 2 .even .two = 0x5E ∧
    lcgen 0 .odd .one = 0x12 ∧ lcgen 1 .odd .two = 0x3A ∧ lcgen 3 .even .one = 0x76 ∧ lcgen 3 .disabled .two = 0x78 ∧
    lcgen 1 .disabled .one = 0x30 ∧ lcgen 2 .odd .one = 0x52 := by decide

/-! ### Acceptance -/

/-- V66 to V70. -/
theorem test_accept :
    after (step (presents [0x18302580])) = some (0, 0, 0x01) ∧ after (step (presents [0x10000000])) = some (15, 0, 0x00) ∧
    after (step (presents [0x18F02580])) = some (14, 2, 0x22) ∧ after (step (presents [0x18300000])) = some (14, 3, 0x32) ∧
    after (step (presents [0x08302580])) = some (14, 1, 0x12) := by decide
/-- V59, V62 to V65: the order of the checks and the edges of BAUD_SET. -/
theorem test_accept_order :
    after (step (presents [0xF0000000])) = some (14, 1, 0x12) ∧ after (step (presents [0x1830095F])) = some (14, 3, 0x32) ∧
    after (step (presents [0x183F4241])) = some (14, 3, 0x32) ∧ after (step (presents [0x18C00000])) = some (14, 2, 0x22) ∧
    after (step (presents [0x183FFFFF])) = some (14, 3, 0x32) := by decide
/-- V66: the record that is latched. -/
theorem test_init_latches : (nextOf (step (presents [0x18302580]))).map State.work = some record1 := by decide
/-- V74, V71: an INIT of instance 2 leaves CONFIGURED of instance 1; one of instance 1 clears it at once. -/
theorem test_init_configured :
    (nextOf (step { presents [0x1C302580] with configured := ⟨true, false⟩ })).map (fun t => (t.configured, status t)) =
      some (⟨true, false⟩, 0x05) ∧
    (nextOf (step { presents [0x18302580] with configured := ⟨true, false⟩ })).map (fun t => (t.configured, status t)) =
      some (⟨false, false⟩, 0x01) := by decide
/-- V72: a null INIT clears nothing and consumes its word. -/
theorem test_initNull :
    nextOf (step { presents [0x14000000] with configured := ⟨true, false⟩ }) =
      some { State.reset with configured := ⟨true, false⟩ } := by decide
/-- V75, V76: a word presented while BUSY or in FAULT waits. -/
theorem test_word_waits :
    (nextOf (step { presents [0x18302580] with pc := 1 })).map State.hostCmds = some [0x18302580] ∧
    (nextOf (step { presents [0x18302580] with pc := 14, hostRst := [false, true] })).map State.hostCmds =
      some [0x18302580] := by decide

/-! ### Micro-ops -/

/-- V77. -/
theorem test_clku :
    (nextOf (exec .clku (midway record2 0 0 0))).map (fun t => (t.clken, t.stable, t.pc, t.trace)) =
      some (0b0010, 0, 1, [.wr 0x10 0x2]) := by decide
/-- V86, V87: a gate that is on stays stable; the other bits are not disturbed. -/
theorem test_clku_again :
    (nextOf (exec .clku (midway record1 0 0b0101 0b0101))).map (fun t => (t.clken, t.stable)) = some (0b0101, 0b0101) ∧
    (nextOf (exec .clku (midway record2 0 0b0101 0b0101))).map (fun t => (t.clken, t.stable)) = some (0b0111, 0b0101) := by
  decide
/-- V78. -/
theorem test_clkp :
    (nextOf (exec .clkp (midway record2 1 0b0010 0))).map (fun t => (t.clken, t.stable, t.pc, t.trace)) =
      some (0b1010, 0, 2, [.wr 0x10 0x8]) := by decide
/-- V79. -/
theorem test_barr :
    (nextOf (exec .barr (midway record2 2 0b1010 0))).map (fun t => (t.clken, t.stable, t.pc, t.trace)) =
      some (0b1010, 0b1010, 3, [.rd 0x11]) := by decide
/-- V88, V89: every gate that is on, and no other. -/
theorem test_barr_all :
    (nextOf (exec .barr (midway record1 2 0b1111 0b0101))).map State.stable = some 0b1111 ∧
    (nextOf (exec .barr (midway record1 2 0b0101 0))).map State.stable = some 0b0101 := by decide
/-- V80. -/
theorem test_dis :
    (nextOf (exec .dis (midway record2 3 0b1010 0b1010))).map (fun t => (t.uart.u2.ctl, t.pc, t.trace)) =
      some (some 0x020, 4, [.wr 0x0B 0x020]) := by decide
/-- V90, V91. -/
theorem test_dis_clockOff :
    after (exec .dis (midway record1 3 0 0)) = some (14, 4, 0x42) ∧
    after (exec .dis (midway record1 3 0b0001 0)) = some (14, 4, 0x42) := by decide
/-- V81. -/
theorem test_wibrd :
    (nextOf (exec .wibrd (withCtl .u2 0x020 (midway record2 4 0b1010 0b1010)))).map
      (fun t => (t.uart.u2.ibrd, t.pc, t.trace)) = some (some 17, 5, [.wr 0x08 17]) := by decide
/-- V92, V96: an undefined CTL counts as enabled; the clock guard comes first. -/
theorem test_wibrd_guards :
    after (exec .wibrd (midway record1 4 0b0101 0b0101)) = some (14, 5, 0x52) ∧
    after (exec .wibrd (withCtl .u1 0x301 (midway record1 4 0 0))) = some (14, 4, 0x42) := by decide
/-- V82. -/
theorem test_wfbrd :
    (nextOf (exec .wfbrd (withCtl .u2 0x020 (midway record2 5 0b1010 0b1010)))).map
      (fun t => (t.uart.u2.fbrd, t.pc, t.trace)) = some (some 23, 6, [.wr 0x09 23]) := by decide
/-- V83. -/
theorem test_wlcrh :
    (nextOf (exec .wlcrh (withCtl .u2 0x020 (midway record2 6 0b1010 0b1010)))).map
      (fun t => (t.uart.u2.lcrh, t.pc, t.trace)) = some (some 0x5E, 7, [.wr 0x0A 0x5E]) := by decide
/-- V93. -/
theorem test_wlcrh_enabled :
    after (exec .wlcrh (withCtl .u1 0x301 (midway record1 6 0b0101 0b0101))) = some (14, 5, 0x52) := by decide
/-- V84, with the wires of R24. -/
theorem test_pins :
    (nextOf (exec .pins (midway record2 7 0b1010 0b1010))).map
      (fun t => (t.pc, t.trace, pinreqWire (midway record2 7 0b1010 0b1010) t)) = some (8, [.wr 0x13 0xF], some 0xF) := by
  decide
/-- V94, V95. -/
theorem test_pins_clockOff :
    after (exec .pins (midway record1 7 0b0001 0b0001)) = some (14, 6, 0x62) ∧
    after (exec .pins (midway record2 7 0b0101 0b0101)) = some (14, 6, 0x62) := by decide
/-- V85. -/
theorem test_ena :
    (nextOf (exec .ena (withCtl .u2 0x020 (midway record2 8 0b1010 0b1010)))).map
      (fun t => (t.uart.u2.ctl, t.configured, t.pc, t.trace)) =
        some (some 0x321, ⟨false, true⟩, 15, [.wr 0x0B 0x321]) := by decide
/-- V97: the enable guard does not apply to CTL. -/
theorem test_ena_enabled :
    after (exec .ena (withCtl .u1 0x301 (midway record1 8 0b0001 0b0001))) = some (15, 0, 0x04) := by decide

/-! ### Reset, the bus, the views -/

/-- V99, V100: reset abandons a sequence and clears a fault. -/
theorem test_reset :
    nextOf (step { p1BeforeEna with pc := 6, hostRst := [true] }) = some { State.reset with hostRst := [] } ∧
    nextOf (step { presents [0x18302580] with pc := 14, fcode := 2, hostRst := [true] }) =
      some (presents [0x18302580]) := by decide
/-- R42: reserved numbers and directions, and a width that is not the register's (R46). -/
theorem test_bus_reserved :
    memWrite 0x04 16 (0 : BitVec 16) State.reset = .refused (.reservedAccess 0x04) ∧
    memWrite 0x11 32 (0 : BitVec 32) State.reset = .refused (.reservedAccess 0x11) ∧
    memWrite 0x12 8 (0 : BitVec 8) State.reset = .refused (.reservedAccess 0x12) ∧
    memRead 0x10 4 State.reset = .refused (.reservedAccess 0x10) ∧
    memWrite 0x10 8 (0 : BitVec 8) State.reset = .refused (.reservedAccess 0x10) := by decide
/-- R69: `{we, rn, data}` of `Wr(0x13, 0xE)` and of `Rd(0x11)`. -/
theorem test_busBits :
    (Txn.wr 0x13 0xE).busBits = [true, true, false, false, true, true, true, true, true, false] ∧
    (Txn.rd 0x11).busBits = [false, true, false, false, false, true] := by decide
/-- R14, R23: STATUS 0x01 while a micro-op is next, 0x36 in P6's end state, 0x0C in P5's. -/
theorem test_status :
    status (midway record1 8 0 0) = 0x01 ∧
    status { State.reset with pc := 14, fcode := 3, configured := ⟨true, false⟩ } = 0x36 ∧
    status { State.reset with configured := ⟨true, true⟩ } = 0x0C := by decide
/-- R30: the wires of P1's last state before ENA. -/
theorem test_wires :
    ibrdWire .u1 0 p1BeforeEna = 104 ∧ fbrdWire .u1 0 p1BeforeEna = 11 ∧ lcrhWire .u1 0 p1BeforeEna = 0x70 ∧
    ctlWire .u1 0 p1BeforeEna = 0 ∧ uclkEn p1BeforeEna = 0b01 ∧ pclkEn p1BeforeEna = 0b01 ∧
    configuredWire p1BeforeEna = 0b00 ∧ cmdValid p1BeforeEna = false := by decide

/-! ### Witnesses: for each statement with hypotheses, states and operands that meet them, one for each clause -/

/-- EncodeOfDecode: a valid INIT, a null INIT, a micro-op. -/
theorem test_witness_EncodeOfDecode :
    decode (.cmd 0x18302580) = .ok (.init .u1 .std .one 0 3 9600) ∧ decode (.cmd 0x17FFFFFF) = .ok (.initNull 0x7FFFFFF) ∧
    decode (.ustep 8) = .ok .ena := by decide
/-- CommandWordLayout: OPs 0, 2 and 15 for the third clause. -/
theorem test_witness_CommandWordLayout :
    (0x08302580 : CmdWord).toNat / 2 ^ 28 ≠ 1 ∧ (0x28302580 : CmdWord).toNat / 2 ^ 28 ≠ 1 ∧
    (0xF0000000 : CmdWord).toNat / 2 ^ 28 ≠ 1 := by decide
/-- StepRunsDecoded, first clause and second clause. -/
theorem test_witness_StepRunsDecoded :
    (rstNow (presents [0x18302580]) = false ∧ (presents [0x18302580]).pc = 15 ∧
      (presents [0x18302580]).hostCmds = 0x18302580 :: [] ∧
      decode (.cmd 0x18302580) = .ok (.init .u1 .std .one 0 3 9600)) ∧
    (rstNow p1BeforeEna = false ∧ decode (.ustep p1BeforeEna.pc) = .ok .ena) := by decide
/-- AcceptDispatch: a state for the shared hypotheses (any other word does as well), and the word of its first arm. -/
theorem test_witness_AcceptDispatch :
    (rstNow (presents [0x08302580]) = false ∧ (presents [0x08302580]).pc = 15 ∧
      (presents [0x08302580]).hostCmds = 0x08302580 :: []) ∧
    (0x08302580 : CmdWord).extractLsb' 28 4 ≠ 1 := by decide
/-- AcceptDispatch, the words of its other four arms. -/
theorem test_witness_AcceptDispatch_words :
    ((0x17FFFFFF : CmdWord).extractLsb' 28 4 = 1 ∧ (0x17FFFFFF : CmdWord).extractLsb' 27 1 = 0) ∧
    ((0x18C00000 : CmdWord).extractLsb' 28 4 = 1 ∧ (0x18C00000 : CmdWord).extractLsb' 27 1 = 1 ∧
      (0x18C00000 : CmdWord).extractLsb' 22 2 = 3) ∧
    ((0x1830095F : CmdWord).extractLsb' 28 4 = 1 ∧ (0x1830095F : CmdWord).extractLsb' 27 1 = 1 ∧
      (0x1830095F : CmdWord).extractLsb' 22 2 ≠ 3 ∧ Config.baudSet ((0x1830095F : CmdWord).extractLsb' 0 20) = false) ∧
    ((0x1A3F4240 : CmdWord).extractLsb' 28 4 = 1 ∧ (0x1A3F4240 : CmdWord).extractLsb' 27 1 = 1 ∧
      (0x1A3F4240 : CmdWord).extractLsb' 22 2 ≠ 3 ∧
      Config.baudSet ((0x1A3F4240 : CmdWord).extractLsb' 0 20) = true) := by decide
/-- PresentedWordWaits: a step that accepts and one that does not. -/
theorem test_witness_PresentedWordWaits :
    (nextOf (step (presents [0x10000000]))).isSome = true ∧
    (nextOf (step { presents [0x10000000] with pc := 0 })).isSome = true := by decide
/-- ResetStep. -/
theorem test_witness_ResetStep : rstNow { p1BeforeEna with hostRst := [true] } = true := by decide
/-- NoStepEnabled: 9 and 13; FAULT with and without a reset to come; IDLE with no word. -/
theorem test_witness_NoStepEnabled :
    (∀ k ∈ [9, 13], rstNow (midway record1 k 0 0) = false ∧ 9 ≤ (midway record1 k 0 0).pc.toNat ∧
      (midway record1 k 0 0).pc.toNat ≤ 13) ∧
    (rstNow (midway record1 14 0 0) = false ∧ (midway record1 14 0 0).pc = 14 ∧ true ∉ (midway record1 14 0 0).hostRst) ∧
    (rstNow { midway record1 14 0 0 with hostRst := [false, true] } = false ∧
      true ∈ { midway record1 14 0 0 with hostRst := [false, true] }.hostRst) ∧
    (rstNow State.reset = false ∧ State.reset.pc = 15 ∧ State.reset.hostCmds = []) := by decide
/-- InitLatches: both ends of BAUD_SET, with the largest legal PAR. -/
theorem test_witness_InitLatches :
    (2 : BitVec 2) ≠ 3 ∧ Config.baudSet 2400 = true ∧ Config.baudSet 1000000 = true := by decide
/-- InitNullNoop, second clause. -/
theorem test_witness_InitNullNoop :
    rstNow (presents [0x17FFFFFF]) = false ∧ (presents [0x17FFFFFF]).pc = 15 ∧
      (presents [0x17FFFFFF]).hostCmds = 0x17FFFFFF :: [] ∧ encode (.initNull 0x7FFFFFF) = .cmd 0x17FFFFFF := by decide
/-- InitRefuses, second clause: 2399, 1000001 and 0. -/
theorem test_witness_InitRefuses :
    (2 : BitVec 2) ≠ 3 ∧ Config.baudSet 2399 = false ∧ Config.baudSet 1000001 = false ∧ Config.baudSet 0 = false := by
  decide
/-- DisRuns and EnaRuns: the clock on and stable; off; on but not stable. -/
theorem test_witness_DisRuns_EnaRuns :
    (∀ k ∈ [3, 8], (midway record2 k 0b1010 0b1010).clken.getLsbD (midway record2 k 0b1010 0b1010).work.inst.index = true ∧
      (midway record2 k 0b1010 0b1010).stable.getLsbD (midway record2 k 0b1010 0b1010).work.inst.index = true) ∧
    (∀ k ∈ [3, 8], (midway record1 k 0 0).clken.getLsbD (midway record1 k 0 0).work.inst.index = false) ∧
    (∀ k ∈ [3, 8], (midway record1 k 1 0).stable.getLsbD (midway record1 k 1 0).work.inst.index = false) := by decide
/-- WibrdRuns, WfbrdRuns and WlcrhRuns, the clause with the effect: the clock on and stable, CTL defined with UARTEN 0; with
a baud rate, and with baud 0 (NoDivisor). -/
theorem test_witness_divisor_writes :
    (∀ w ∈ [record1, { record1 with baud := 0 }],
      (withCtl .u1 0x020 (midway w 4 1 1)).clken.getLsbD (withCtl .u1 0x020 (midway w 4 1 1)).work.inst.index = true ∧
      (withCtl .u1 0x020 (midway w 4 1 1)).stable.getLsbD (withCtl .u1 0x020 (midway w 4 1 1)).work.inst.index = true ∧
      ((withCtl .u1 0x020 (midway w 4 1 1)).uart.get (withCtl .u1 0x020 (midway w 4 1 1)).work.inst).ctl = some 0x020) ∧
    (0x020 : BitVec 10).getLsbD 0 = false ∧ (withCtl .u1 0x020 (midway record1 4 1 1)).work.baud ≠ 0 ∧
    (withCtl .u1 0x020 (midway { record1 with baud := 0 } 4 1 1)).work.baud = 0 := by decide
/-- NoDivisor: the instructions it is about, and baud 0 with the clock off, on but not stable, and with CTL undefined. -/
theorem test_witness_NoDivisor :
    Instr.wibrd ∈ [Instr.wibrd, .wfbrd] ∧ Instr.wfbrd ∈ [Instr.wibrd, .wfbrd] ∧ State.reset.work.baud = 0 ∧
    State.reset.clken.getLsbD State.reset.work.inst.index = false ∧
    (midway WorkRegs.reset 4 1 0).stable.getLsbD (midway WorkRegs.reset 4 1 0).work.inst.index = false ∧
    (midway WorkRegs.reset 4 1 1).work.baud = 0 ∧
    ((midway WorkRegs.reset 4 1 1).uart.get (midway WorkRegs.reset 4 1 1).work.inst).ctl = none := by decide
/-- WibrdRuns, WfbrdRuns, WlcrhRuns, the clauses with a fault: the clock off; on but not stable; CTL undefined. -/
theorem test_witness_divisor_faults :
    (midway record1 4 0 0).clken.getLsbD (midway record1 4 0 0).work.inst.index = false ∧
    (midway record1 4 1 0).stable.getLsbD (midway record1 4 1 0).work.inst.index = false ∧
    ((midway record1 4 1 1).uart.get (midway record1 4 1 1).work.inst).ctl = none ∧
    ((withCtl .u1 0x301 (midway record1 4 1 1)).uart.get .u1).ctl = some 0x301 ∧ (0x301 : BitVec 10).getLsbD 0 = true := by
  decide
/-- The third clause's own hypothesis, for CTL undefined and for CTL enabled. -/
theorem test_witness_enabled :
    (∀ c, ((midway record1 4 1 1).uart.get (midway record1 4 1 1).work.inst).ctl = some c → c.getLsbD 0 = true) ∧
    (∀ c, ((withCtl .u1 0x301 (midway record1 4 1 1)).uart.get .u1).ctl = some c → c.getLsbD 0 = true) := by
  refine ⟨fun c h => (by cases h), fun c h => (by cases h; decide)⟩
/-- PinsRuns: the pin clock on and stable; off; on but not stable. -/
theorem test_witness_PinsRuns :
    ((midway record2 7 0b1010 0b1010).clken.getLsbD (2 + (midway record2 7 0b1010 0b1010).work.inst.index) = true ∧
      (midway record2 7 0b1010 0b1010).stable.getLsbD (2 + (midway record2 7 0b1010 0b1010).work.inst.index) = true) ∧
    (midway record1 7 0b0001 0b0001).clken.getLsbD (2 + (midway record1 7 0b0001 0b0001).work.inst.index) = false ∧
    (midway record1 7 0b0101 0b0001).stable.getLsbD (2 + (midway record1 7 0b0101 0b0001).work.inst.index) = false := by
  decide
/-- MemWriteRule: every writable register with its guard holding, and with it failing where it has one. -/
theorem test_witness_MemWriteRule :
    (∀ r ∈ [Reg.ibrd .u1, .fbrd .u1, .lcrh .u1, .ctl .u1, .clken, .pinreq], r.access = .write ∧
      writeGuard r (0 : BitVec r.width) (withCtl .u1 0 (midway record1 4 0b0101 0b0101)) = none) ∧
    (∀ r ∈ [Reg.ibrd .u2, .fbrd .u2, .lcrh .u2, .ctl .u2], r.access = .write ∧
      writeGuard r (0 : BitVec r.width) State.reset = some (.clockOff r.number)) ∧
    writeGuard .pinreq (0xF : BitVec 4) State.reset = some (.pinClockOff 0xF) := by decide
/-- ReservedAccessRefused: a reserved number, the read-only registers, and reads of writable ones. -/
theorem test_witness_ReservedAccessRefused :
    (∀ rn ∈ [0x04, 0x07, 0x0C, 0x0F, 0x11, 0x12, 0x14, 0x1F],
      (rn : RegNum) ∉ [0x00, 0x01, 0x02, 0x03, 0x08, 0x09, 0x0A, 0x0B, 0x10, 0x13]) ∧
    (0x10 : RegNum) ≠ 0x11 ∧ (0x12 : RegNum) ≠ 0x11 := by decide
/-- ClockGuard and EnableGuard: the registers they are about, and a state on each side of each guard. -/
theorem test_witness_guards :
    Reg.ctl .u1 ∈ [Reg.ibrd .u1, .fbrd .u1, .lcrh .u1, .ctl .u1] ∧ Reg.ibrd .u2 ∈ [Reg.ibrd .u2, .fbrd .u2, .lcrh .u2] ∧
    memWrite (Reg.ctl .u1).number 10 (0 : BitVec 10) State.reset = .raised (.clockOff 0x03) ∧
    memWrite (Reg.ibrd .u2).number 16 (1 : BitVec 16) (midway record2 4 0b1010 0b1010) =
      .raised (.writeWhileEnabled 0x08) := by decide
/-- DivgenFormula and DivgenCarry: a baud rate that carries, one that does not, and the least one. -/
theorem test_witness_DivgenFormula_Carry :
    (2445 : BitVec 20) ≠ 0 ∧ (9600 : BitVec 20) ≠ 0 ∧ (1 : BitVec 20) ≠ 0 ∧
    fracPart 16000000 (denominator 2445 .std) = 64 ∧ fracPart 16000000 (denominator 9600 .std) = 11 := by decide
/-- DivgenClosedForm and DivgenNearest: the least and the greatest legal REF_HZ, with the least baud rate. -/
theorem test_witness_DivgenClosedForm_Nearest :
    Config.RefHzLegal 1 ∧ Config.RefHzLegal 1258271999 ∧ 2400 ≤ (2400 : BitVec 20).toNat := by decide
/-- DivgenRange: both ends. -/
theorem test_witness_DivgenRange :
    (2400 ≤ (2400 : BitVec 20).toNat ∧ (2400 : BitVec 20).toNat ≤ 1000000) ∧
    (2400 ≤ (1000000 : BitVec 20).toNat ∧ (1000000 : BitVec 20).toNat ≤ 1000000) := by decide
/-- LcgenInjective. -/
theorem test_witness_LcgenInjective : lcgen 3 .even .two = lcgen 3 .even .two := by decide
/-- StatusView, third clause: an instruction that answers a next state, and an entry of its TRACE. The premise that the entry
is of register 0x12 is met only by a TRACE that held one before, such as this one. -/
theorem test_witness_StatusView :
    (nextOf (exec .clku { State.reset with trace := [.rd 0x12] })).map State.trace = some [.rd 0x12, .wr 0x10 1] ∧
    (Txn.rd 0x12).rn = 0x12 := by decide
/-- PinRequestWire: a step that requests, and one that does not. -/
theorem test_witness_PinRequestWire :
    (nextOf (step (midway record1 7 0b0101 0b0101))).map (pinreqWire (midway record1 7 0b0101 0b0101)) = some (some 0xE) ∧
    (nextOf (step (midway record1 7 0 0))).map (pinreqWire (midway record1 7 0 0)) = some none := by decide
/-- ControlTransfer: a step of each kind, by the STEP before and after. -/
theorem test_witness_ControlTransfer :
    (nextOf (step { p1BeforeEna with hostRst := [true] })).map State.pc = some 15 ∧
    (nextOf (step (midway record1 0 0 0))).map State.pc = some 1 ∧
    (nextOf (step (midway record1 7 0 0))).map State.pc = some 14 ∧
    (nextOf (step p1BeforeEna)).map State.pc = some 15 ∧ (nextOf (step (midway record1 8 0 0))).map State.pc = some 14 ∧
    (nextOf (step { midway record1 14 0 0 with hostRst := [false, true] })).map State.pc = some 14 ∧
    (nextOf (step (presents [0x18302580]))).map State.pc = some 0 ∧
    (nextOf (step State.reset)).map State.pc = some 15 ∧
    (nextOf (step (presents [0x18F02580]))).map State.pc = some 14 := by decide
/-- FaultIsSticky: FAULT with a reset later, and with one now. -/
theorem test_witness_FaultIsSticky :
    (midway record1 14 0 0).pc = 14 ∧
    (nextOf (step { midway record1 14 0 0 with hostRst := [false, true] })).isSome = true ∧
    (nextOf (step { midway record1 14 0 0 with hostRst := [true] })).isSome = true := by decide
/-- ConfiguredChanges: CONFIGURED rises by ENA, falls by reset and by an accepted INIT. -/
theorem test_witness_ConfiguredChanges :
    p1BeforeEna.configured.get .u1 = false ∧
    (nextOf (step p1BeforeEna)).map (fun t => t.configured.get .u1) = some true ∧
    (nextOf (step { State.reset with configured := ⟨true, false⟩, hostRst := [true] })).map
      (fun t => t.configured.get .u1) = some false ∧
    (nextOf (step { presents [0x18302580] with configured := ⟨true, false⟩ })).map
      (fun t => t.configured.get .u1) = some false := by decide
/-- WorkChangesAtAcceptance and TraceGrowth: an accept, a reset, a micro-op, a fault. -/
theorem test_witness_Work_Trace :
    (nextOf (step (presents [0x18302580]))).map (fun t => (t.work, t.trace)) = some (record1, []) ∧
    (nextOf (step { p1BeforeEna with hostRst := [true] })).map (fun t => (t.work, t.trace)) = some (WorkRegs.reset, []) ∧
    (nextOf (step p1BeforeEna)).map (fun t => (t.work, t.trace)) = some (record1, [.wr 0x03 0x301]) ∧
    (nextOf (step (midway record1 7 0 0))).map (fun t => (t.pc, t.trace)) = some (14, []) := by decide
/-- ClocksStayOn. -/
theorem test_witness_ClocksStayOn :
    (nextOf (step (midway record2 0 0b0101 0b0101))).isSome = true ∧ rstNow (midway record2 0 0b0101 0b0101) = false ∧
    (midway record2 0 0b0101 0b0101).clken.getLsbD 0 = true := by decide
/-- InstanceIsolation: the first and the last micro-op. -/
theorem test_witness_InstanceIsolation :
    (nextOf (step (midway record1 0 0 0))).isSome = true ∧ rstNow (midway record1 0 0 0) = false ∧
    (midway record1 0 0 0).pc.toNat ≤ 8 ∧ Inst.u2 ≠ (midway record1 0 0 0).work.inst ∧
    (nextOf (step p1BeforeEna)).isSome = true ∧ rstNow p1BeforeEna = false ∧ p1BeforeEna.pc.toNat ≤ 8 ∧
    Inst.u2 ≠ p1BeforeEna.work.inst := by decide

/-- The invariant holds in the middle of the document's scenario, before CLKU. -/
theorem inv_before_clku : Inv (midway record1 0 0 0) where
  pc_legal := by decide
  stable_on := by decide
  fcode_clear := by decide
  fcode_fault := by decide
  progress _ := ⟨by decide, by decide, by decide, by decide, by decide, by decide, by decide, by decide, by decide⟩
  enabled_configured i c h := by cases i <;> cases h
  configured_usable i h := by cases i <;> cases h
  trace_wf := by decide

/-- The invariant holds in the middle of the document's scenario, before ENA. -/
theorem inv_before_ena : Inv p1BeforeEna where
  pc_legal := by decide
  stable_on := by decide
  fcode_clear := by decide
  fcode_fault := by decide
  progress _ := ⟨by decide, by decide, by decide, by decide, by decide, by decide, by decide, by decide, by decide⟩
  enabled_configured i c h hu := by cases i <;> cases h; exact absurd hu (by decide)
  configured_usable i h := by cases i <;> cases h
  trace_wf := by decide

/-- InvStep and SequenceRaisesNoFault: a state that meets the invariant with the first and with the last micro-op next. -/
theorem test_witness_InvStep_NoFault :
    (Inv (midway record1 0 0 0) ∧ rstNow (midway record1 0 0 0) = false ∧ (midway record1 0 0 0).pc.toNat ≤ 8 ∧
      ∃ t, step (midway record1 0 0 0) = .next t) ∧
    (Inv p1BeforeEna ∧ rstNow p1BeforeEna = false ∧ p1BeforeEna.pc.toNat ≤ 8 ∧ ∃ t, step p1BeforeEna = .next t) :=
  ⟨⟨inv_before_clku, by decide, by decide, _, rfl⟩, ⟨inv_before_ena, by decide, by decide, _, rfl⟩⟩

/-- InitEndState: the document's scenario (P1). -/
theorem test_witness_InitEndState :
    (presents [0x18302580]).pc = 15 ∧ (∀ b ∈ { presents [0x18302580] with hostRst := [false, false] }.hostRst, b = false) ∧
    (presents [0x18302580]).hostCmds = 0x18302580 :: [] ∧
    encode (.init .u1 .std .one Parity.disabled.code 3 9600) = .cmd 0x18302580 ∧ Config.baudSet 9600 = true := by decide
/-- InitIdempotent: P2. -/
theorem test_witness_InitIdempotent :
    (presents [0x1FA1C200, 0x1FA1C200]).pc = 15 ∧ (∀ b ∈ (presents [0x1FA1C200, 0x1FA1C200]).hostRst, b = false) ∧
    (presents [0x1FA1C200, 0x1FA1C200]).hostCmds = 0x1FA1C200 :: 0x1FA1C200 :: [] ∧
    encode (.init .u2 .hs .two Parity.even.code 2 115200) = .cmd 0x1FA1C200 ∧ Config.baudSet 115200 = true := by decide

end Sys2Proof.Tests
end

/-! PROOF. The STATUS view (10_state R23): its bits, and which transactions an instruction can add to TRACE. -/

namespace Sys2Proof.Machine

/-! ### The bits of the view -/

/-- STATUS in three fields: FCODE, the two CONFIGURED bits as they are on their wires, and the pair FAULT, BUSY. -/
theorem status_eq_append (s : State) :
    status s = s.fcode ++ configuredWire s ++ (flagBit (inFault s) ++ flagBit (busy s)) :=
  (BitVec.append_assoc (x₁ := s.fcode ++ flagBit (s.configured.get .u2) ++ flagBit (s.configured.get .u1))).trans
    (congrArg (· ++ (flagBit (inFault s) ++ flagBit (busy s))) (BitVec.append_assoc (x₁ := s.fcode)))

theorem status_extract_fcode (s : State) : (status s).extractLsb' 4 4 = s.fcode := by
  rw [status_eq_append]
  exact (BitVec.extractLsb'_append_eq_of_le (by decide)).trans BitVec.extractLsb'_append_eq_left

theorem status_extract_configured (s : State) : (status s).extractLsb' 2 2 = configuredWire s := by
  rw [status_eq_append]
  exact (BitVec.extractLsb'_append_eq_of_le (by decide)).trans BitVec.extractLsb'_append_eq_right

theorem status_extract_flags (s : State) :
    (status s).extractLsb' 0 2 = flagBit (inFault s) ++ flagBit (busy s) := by
  rw [status_eq_append]
  exact BitVec.extractLsb'_append_eq_right

theorem flagBit_append_getLsbD_zero (a b : Bool) : (flagBit a ++ flagBit b).getLsbD 0 = b := by
  revert a b; decide

theorem flagBit_append_getLsbD_one (a b : Bool) : (flagBit a ++ flagBit b).getLsbD 1 = a := by
  revert a b; decide

/-- A field of two flags in a word gives the two bits of the word. -/
theorem getLsbD_of_extract_flags {n start : Nat} {v : BitVec n} {a b : Bool}
    (h : v.extractLsb' start 2 = flagBit a ++ flagBit b) :
    v.getLsbD start = b ∧ v.getLsbD (start + 1) = a := by
  have bit (k : Nat) (hk : k < 2) : v.getLsbD (start + k) = (flagBit a ++ flagBit b).getLsbD k := by
    rw [← h, BitVec.getLsbD_extractLsb', decide_eq_true hk, Bool.true_and]
  exact ⟨(bit 0 (by decide)).trans (flagBit_append_getLsbD_zero a b),
    (bit 1 (by decide)).trans (flagBit_append_getLsbD_one a b)⟩

/-! ### What an instruction adds to TRACE -/

/-- A write of a writable register in its own width is a transaction of the map (R41, R69). -/
theorem wf_wr_number (r : Reg) (hw : r.access = .write) (v : BitVec r.width) :
    (Txn.wr r.number (v.setWidth 32)).wf = true := by
  have hv : (v.setWidth 32).toNat < 2 ^ r.width := by
    rw [BitVec.toNat_setWidth]
    exact Nat.lt_of_le_of_lt (Nat.mod_le _ _) v.isLt
  simp only [Txn.wf, ofNumber_number, hw, hv, beq_self_eq_true, decide_true, Bool.and_self]

/-- A transaction of the map selects a register the sequencer may access (R41). -/
theorem Txn.exists_access_of_wf {e : Txn} (he : e.wf = true) :
    ∃ r, Reg.ofNumber e.rn = some r ∧ r.access ≠ .none := by
  cases e with
  | wr rn data =>
    cases hr : Reg.ofNumber rn with
    | none => simp [Txn.wf, hr] at he
    | some r =>
      simp only [Txn.wf, hr, Bool.and_eq_true, beq_iff_eq] at he
      exact ⟨r, hr, by simp [he.1]⟩
  | rd rn =>
    cases hr : Reg.ofNumber rn with
    | none => simp [Txn.wf, hr] at he
    | some r =>
      simp only [Txn.wf, hr, beq_iff_eq] at he
      exact ⟨r, hr, by simp [he]⟩

/-- STATUS is in no transaction of the map: the sequencer has no access to it (R23, R41). -/
theorem Txn.rn_ne_status_of_wf {e : Txn} (he : e.wf = true) : e.rn ≠ 0x12 := by
  obtain ⟨r, hr, hacc⟩ := Txn.exists_access_of_wf he
  intro hn
  rw [hn] at hr
  cases (ofNumber_number .status).symm.trans hr
  exact hacc rfl

/-- A micro-op takes a fault, or appends one transaction of the map to TRACE (R27, R120). -/
theorem exec_micro_trace {k : StepCode} {i : Instr} {s t : State} (hd : decodeUstep k = .ok i)
    (h : exec i s = .next t) :
    (∃ f, t = raise f s) ∨ ∃ e : Txn, e.wf = true ∧ t.trace = s.trace ++ [e] := by
  rcases exec_micro_next hd h with ⟨-, -, hf⟩ | ⟨-, rfl⟩ | ⟨-, rfl⟩ | ⟨-, rfl⟩ | ⟨-, -, rfl⟩ | ⟨-, -, -, p, -, rfl⟩ |
    ⟨-, -, -, p, -, rfl⟩ | ⟨-, -, -, rfl⟩ | ⟨-, -, rfl⟩ | ⟨-, -, rfl⟩
  · exact .inl hf
  · exact .inr ⟨_, wf_wr_number .clken rfl (uclkMask s.work.inst), rfl⟩
  · exact .inr ⟨_, wf_wr_number .clken rfl (pclkMask s.work.inst), rfl⟩
  · exact .inr ⟨.rd 0x11, by decide, rfl⟩
  · exact .inr ⟨_, wf_wr_number (.ctl s.work.inst) rfl (ctlOff s.work.hse), rfl⟩
  · exact .inr ⟨_, wf_wr_number (.ibrd s.work.inst) rfl p.1, rfl⟩
  · exact .inr ⟨_, wf_wr_number (.fbrd s.work.inst) rfl p.2, rfl⟩
  · exact .inr ⟨_, wf_wr_number (.lcrh s.work.inst) rfl (lcgen s.work.wlen s.work.par s.work.stp2), rfl⟩
  · exact .inr ⟨_, wf_wr_number .pinreq rfl (pinRequest s.work.inst), rfl⟩
  · exact .inr ⟨_, wf_wr_number (.ctl s.work.inst) rfl (ctlOn s.work.hse), rfl⟩

/-- INIT makes no register-bus transaction, whatever its operands (R116, R117). -/
theorem execInit_trace {inst : Inst} {hse : Sampling} {stp2 : StopBits} {par wlen : BitVec 2} {baud : BitVec 20}
    {s t : State} (h : execInit inst hse stp2 par wlen baud s = .next t) : t.trace = s.trace := by
  rcases execInit_cases inst hse stp2 par wlen baud s with ⟨-, c, he⟩ | ⟨-, c, he⟩ | ⟨p, -, -, he⟩
  all_goals
    cases he.symm.trans h
    rfl

/-- Every TRACE entry after a micro-op stood there before, or is a transaction of the map. -/
theorem exec_micro_mem_trace {k : StepCode} {i : Instr} {s t : State} {e : Txn} (hd : decodeUstep k = .ok i)
    (h : exec i s = .next t) (he : e ∈ t.trace) : e ∈ s.trace ∨ e.wf = true := by
  rcases exec_micro_trace hd h with ⟨f, rfl⟩ | ⟨e', hwf, ht⟩
  · exact .inl he
  · rw [ht, List.mem_append, List.mem_singleton] at he
    exact he.imp_right fun hee => by rw [hee, hwf]

/-- Every TRACE entry after an instruction stood there before, or is a transaction of the map. -/
theorem exec_mem_trace {i : Instr} {s t : State} {e : Txn} (h : exec i s = .next t) (he : e ∈ t.trace) :
    e ∈ s.trace ∨ e.wf = true := by
  cases i with
  | init inst hse stp2 par wlen baud => exact .inl (execInit_trace h ▸ he)
  | initNull ignored => cases h; exact .inl he
  | clku => exact exec_micro_mem_trace (k := 0) rfl h he
  | clkp => exact exec_micro_mem_trace (k := 1) rfl h he
  | barr => exact exec_micro_mem_trace (k := 2) rfl h he
  | dis => exact exec_micro_mem_trace (k := 3) rfl h he
  | wibrd => exact exec_micro_mem_trace (k := 4) rfl h he
  | wfbrd => exact exec_micro_mem_trace (k := 5) rfl h he
  | wlcrh => exact exec_micro_mem_trace (k := 6) rfl h he
  | pins => exact exec_micro_mem_trace (k := 7) rfl h he
  | ena => exact exec_micro_mem_trace (k := 8) rfl h he

/-- Settles O38: the bits of the concatenation, and that STATUS is in no transaction of the register map. -/
theorem statusView : Obligations.StatusView := by
  refine ⟨fun s => ?_, by decide, fun i s t e h he hn => ?_⟩
  · obtain ⟨hbusy, hfault⟩ := getLsbD_of_extract_flags (status_extract_flags s)
    obtain ⟨hu1, hu2⟩ := getLsbD_of_extract_flags (status_extract_configured s)
    exact ⟨hbusy, hfault, hu1, hu2, status_extract_fcode s, hbusy, hfault, status_extract_configured s⟩
  · exact (exec_mem_trace h he).resolve_right fun hwf => Txn.rn_ne_status_of_wf hwf hn

end Sys2Proof.Machine

/-! PROOF. The register bus (20_memory): MemRead and MemWrite, the accesses without a meaning, and the three write guards. -/

namespace Sys2Proof.Machine

/-! ### The answer of a guarded write -/

theorem guarded_raised_iff {g : Option Cause} {t : State} {f : Cause} : guarded g t = .raised f ↔ g = some f := by
  cases g <;> simp [guarded]

/-- A write of a writable register raises exactly what its guard says (R45 (1)). -/
theorem memWrite_number_raised_iff {r : Reg} (hw : r.access = .write) {v : BitVec r.width} {s : State} {f : Cause} :
    memWrite r.number r.width v s = .raised f ↔ writeGuard r v s = some f := by
  rw [memWrite_number r hw]
  exact guarded_raised_iff

/-! ### What the barrier and the writes do, bit by bit and register by register -/

/-- The barrier in the words of R55: a clock that is on becomes stable, any other keeps its STABLE bit. -/
theorem barrier_stable_getLsbD (s : State) (b : Nat) :
    (barrier s).stable.getLsbD b = if s.clken.getLsbD b = true then true else s.stable.getLsbD b := by
  rw [barrier_stable, BitVec.getLsbD_or]
  cases s.clken.getLsbD b <;> simp

/-- Settles O25: the value drawn, and the state the barrier and the TRACE entry give. -/
theorem memReadRule : Obligations.MemReadRule := fun s =>
  ⟨_, _, memRead_clkstat s, fun b _ => barrier_stable_getLsbD s b, rfl, rfl⟩

@[simp] theorem store_trace (r : Reg) {n : Nat} (v : BitVec n) (s : State) : (store r v s).trace = s.trace := by
  cases r <;> rfl

/-- An update of one UART replaces its registers and leaves the other UART's. -/
theorem updUart_get (i j : Inst) (f : Uart → Uart) (s : State) :
    (updUart i f s).uart.get j = if j = i then f (s.uart.get j) else s.uart.get j := by
  rw [updUart_uart, PerInst.get_set]
  split
  · next h => rw [h]
  · rfl

theorem setClken_clken_getLsbD (v : BitVec 4) (s : State) (b : Nat) :
    (setClken v s).clken.getLsbD b = (s.clken.getLsbD b || v.getLsbD b) := by
  rw [setClken_clken, BitVec.getLsbD_or]

/-- A clock that a write to CLKEN newly turns on loses its STABLE bit; no other does (R51 (b)). -/
theorem setClken_stable_getLsbD (v : BitVec 4) (s : State) {b : Nat} (hb : b < 4) :
    (setClken v s).stable.getLsbD b =
      if v.getLsbD b = true ∧ s.clken.getLsbD b = false then false else s.stable.getLsbD b := by
  simp only [setClken_stable, BitVec.getLsbD_and, BitVec.getLsbD_not, hb, decide_true, Bool.true_and]
  cases v.getLsbD b <;> cases s.clken.getLsbD b <;> simp

/-- The request a write puts out is the one on the wire in that step (R24, R128). -/
theorem pinreqWire_of_append {s t : State} {v : BitVec 4} (h : t.pinLog = s.pinLog ++ [v]) :
    pinreqWire s t = some v := by
  rw [pinreqWire, h, List.drop_left]
  rfl

/-- Settles O26: the state after a write whose guard holds, register by register. -/
theorem memWriteRule : Obligations.MemWriteRule := by
  intro r v s hw
  refine ⟨fun f => (memWrite_number_raised_iff hw).mpr, fun hg => ?_⟩
  have hdone : memWrite r.number r.width v s = .done (addTxn (.wr r.number (v.setWidth 32)) (store r v s)) := by
    rw [memWrite_number r hw, hg]
    rfl
  refine ⟨_, hdone, ?_, ?_⟩
  · rw [addTxn_trace, store_trace, BitVec.ofNat_toNat]
  · simp only [BitVec.ofNat_toNat]
    cases r with
    | ibrd i => exact ⟨rfl, fun j => updUart_get i j (fun u => { u with ibrd := some (v.setWidth 16) }) s⟩
    | fbrd i => exact ⟨rfl, fun j => updUart_get i j (fun u => { u with fbrd := some (v.setWidth 6) }) s⟩
    | lcrh i => exact ⟨rfl, fun j => updUart_get i j (fun u => { u with lcrh := some (v.setWidth 8) }) s⟩
    | ctl i => exact ⟨rfl, fun j => updUart_get i j (fun u => { u with ctl := some (v.setWidth 10) }) s⟩
    | clken => exact ⟨rfl, fun b hb => ⟨setClken_clken_getLsbD v s b, setClken_stable_getLsbD v s hb⟩⟩
    | pinreq => exact ⟨rfl, pinreqWire_of_append rfl⟩
    | clkstat => cases hw
    | status => cases hw

/-! ### Accesses without a meaning -/

/-- The writable registers of the map are these ten (R41). -/
theorem number_mem_of_writable {r : Reg} (hw : r.access = .write) :
    r.number ∈ [0x00, 0x01, 0x02, 0x03, 0x08, 0x09, 0x0A, 0x0B, 0x10, 0x13] := by
  cases r with
  | ibrd i => cases i <;> decide
  | fbrd i => cases i <;> decide
  | lcrh i => cases i <;> decide
  | ctl i => cases i <;> decide
  | clken => decide
  | pinreq => decide
  | clkstat => cases hw
  | status => cases hw

/-- CLKSTAT is the only register the sequencer reads (R41). -/
theorem eq_clkstat_of_readable {r : Reg} (hr : r.access = .read) : r = .clkstat := by
  cases r with
  | clkstat => rfl
  | _ => cases hr

/-- A write to a number that selects no writable register is refused, in any width (R42). -/
theorem memWrite_refused {rn : RegNum} (h : ∀ r, Reg.ofNumber rn = some r → r.access ≠ .write) (n : Nat) (v : BitVec n)
    (s : State) : memWrite rn n v s = .refused (.reservedAccess rn) := by
  unfold memWrite
  split
  · rfl
  · next r hr => exact if_neg fun hw => h r hr hw.1

/-- A read of a number that selects no readable register is refused, in any width (R42). -/
theorem memRead_refused {rn : RegNum} (h : ∀ r, Reg.ofNumber rn = some r → r.access ≠ .read) (n : Nat) (s : State) :
    memRead rn n s = .refused (.reservedAccess rn) := by
  unfold memRead
  split
  · rfl
  · next r hr => exact if_neg fun hw => h r hr hw.1

theorem noDivisor_ne_reservedAccess (r : Reg) (s : State) (rn : RegNum) :
    noDivisor r s ≠ .refused (.reservedAccess rn) := by
  unfold noDivisor
  split <;> exact nofun

/-- Every instruction answers a next state, or is a divisor write without a DIVGEN value. -/
theorem exec_next_or_noDivisor (i : Instr) (s : State) :
    (∃ t, exec i s = .next t) ∨ ∃ r, exec i s = noDivisor r s := by
  cases i with
  | init inst hse stp2 par wlen baud =>
    rcases execInit_cases inst hse stp2 par wlen baud s with ⟨-, c, he⟩ | ⟨-, c, he⟩ | ⟨p, -, -, he⟩
    all_goals exact .inl ⟨_, he⟩
  | initNull ignored => exact .inl ⟨s, rfl⟩
  | clku => exact .inl ⟨_, execClku_eq s⟩
  | clkp => exact .inl ⟨_, execClkp_eq s⟩
  | barr => exact .inl ⟨_, execBarr_eq s⟩
  | dis => exact .inl ⟨_, execDis_eq s⟩
  | wibrd =>
    cases hp : divgen Config.refHz s.work.baud s.work.hse with
    | none => exact .inr ⟨_, execWibrd_none (divgen_none.mp hp)⟩
    | some p => exact .inl ⟨_, execWibrd_eq hp⟩
  | wfbrd =>
    cases hp : divgen Config.refHz s.work.baud s.work.hse with
    | none => exact .inr ⟨_, execWfbrd_none (divgen_none.mp hp)⟩
    | some p => exact .inl ⟨_, execWfbrd_eq hp⟩
  | wlcrh => exact .inl ⟨_, execWlcrh_eq s⟩
  | pins => exact .inl ⟨_, execPins_eq s⟩
  | ena => exact .inl ⟨_, execEna_eq s⟩

/-- No instruction makes an access that has no meaning (R42). -/
theorem exec_ne_reservedAccess (i : Instr) (s : State) (rn : RegNum) : exec i s ≠ .refused (.reservedAccess rn) := by
  rcases exec_next_or_noDivisor i s with ⟨t, ht⟩ | ⟨r, hr⟩
  · rw [ht]
    exact nofun
  · rw [hr]
    exact noDivisor_ne_reservedAccess r s rn

/-- Settles O27: the register map lists the numbers with a meaning, and no instruction's access is refused. -/
theorem reservedAccessRefused : Obligations.ReservedAccessRefused := by
  refine ⟨fun rn n v s hrn => ?_, fun rn n s hrn => ?_, exec_ne_reservedAccess⟩
  · refine memWrite_refused (fun r hr hw => ?_) n v s
    obtain rfl := number_of_ofNumber hr
    exact hrn (number_mem_of_writable hw)
  · refine memRead_refused (fun r hr hacc => ?_) n s
    obtain rfl := number_of_ofNumber hr
    exact hrn (congrArg Reg.number (eq_clkstat_of_readable hacc))

/-! ### The guards -/

/-- The clock guard by its two bits (R48). -/
theorem clockOk_iff {i : Inst} {s : State} :
    clockOk i s = true ↔ s.clken.getLsbD i.index = true ∧ s.stable.getLsbD i.index = true :=
  Bool.and_eq_true_iff

/-- The enable guard fails on an undefined CTL and on UARTEN 1 (R49). -/
theorem not_uartOff_iff {i : Inst} {s : State} :
    ¬ uartOff i s = true ↔ (s.uart.get i).ctl = none ∨ ∃ c, (s.uart.get i).ctl = some c ∧ c.getLsbD 0 = true := by
  unfold uartOff
  cases (s.uart.get i).ctl <;> simp [uarten]

/-- The bit of a pin request the guard reads is the number of the UART (R50). -/
theorem ofBit_extract_index (v : BitVec 4) : (Inst.ofBit (v.extractLsb' 0 1)).index = (v.getLsbD 0).toNat := by
  revert v; decide

/-- The pin-clock guard of a request by its two bits (R50). -/
theorem pinClockOk_request_iff {v : BitVec 4} {s : State} :
    pinClockOk (Inst.ofBit (v.extractLsb' 0 1)) s = true ↔
      s.clken.getLsbD (2 + (v.getLsbD 0).toNat) = true ∧ s.stable.getLsbD (2 + (v.getLsbD 0).toNat) = true := by
  rw [pinClockOk, pclkBit, ofBit_extract_index, Bool.and_eq_true_iff]

theorem configGuard_clockOff {i : Inst} {rn : RegNum} {s : State} :
    configGuard i rn s = some (.clockOff rn) ↔ ¬ clockOk i s = true := by
  unfold configGuard
  cases clockOk i s <;> cases uartOff i s <;> simp

theorem configGuard_writeWhileEnabled {i : Inst} {rn : RegNum} {s : State} :
    configGuard i rn s = some (.writeWhileEnabled rn) ↔ clockOk i s = true ∧ ¬ uartOff i s = true := by
  unfold configGuard
  cases clockOk i s <;> cases uartOff i s <;> simp

theorem ctlGuard_clockOff {i : Inst} {rn : RegNum} {s : State} :
    ctlGuard i rn s = some (.clockOff rn) ↔ ¬ clockOk i s = true := by
  unfold ctlGuard
  cases clockOk i s <;> simp

theorem ctlGuard_ne_writeWhileEnabled (i : Inst) (rn rn' : RegNum) (s : State) :
    ctlGuard i rn s ≠ some (.writeWhileEnabled rn') := by
  unfold ctlGuard
  cases clockOk i s <;> simp

theorem pinGuard_pinClockOff {v : BitVec 4} {s : State} :
    pinGuard v s = some (.pinClockOff v) ↔ ¬ pinClockOk (Inst.ofBit (v.extractLsb' 0 1)) s = true := by
  unfold pinGuard
  cases pinClockOk (Inst.ofBit (v.extractLsb' 0 1)) s <;> simp

/-- The three registers behind both guards: they are writable, and their guard is `configGuard` (R48, R49). -/
theorem writeGuard_of_config {i : Inst} {r : Reg} (hr : r ∈ [.ibrd i, .fbrd i, .lcrh i]) :
    r.access = .write ∧ ∀ (v : BitVec r.width) (s : State), writeGuard r v s = configGuard i r.number s := by
  simp only [List.mem_cons, List.not_mem_nil, or_false] at hr
  rcases hr with rfl | rfl | rfl <;> exact ⟨rfl, fun _ _ => rfl⟩

/-- The four registers behind the clock guard: it is the one that raises ClockOff (R48). -/
theorem writeGuard_clockOff {i : Inst} {r : Reg} (hr : r ∈ [.ibrd i, .fbrd i, .lcrh i, .ctl i]) :
    r.access = .write ∧
      ∀ (v : BitVec r.width) (s : State), writeGuard r v s = some (.clockOff r.number) ↔ ¬ clockOk i s = true := by
  have hsplit : r ∈ [.ibrd i, .fbrd i, .lcrh i] ∨ r = .ctl i := by
    rwa [← List.mem_singleton, ← List.mem_append]
  rcases hsplit with hc | rfl
  · obtain ⟨hw, hg⟩ := writeGuard_of_config hc
    exact ⟨hw, fun v s => by rw [hg, configGuard_clockOff]⟩
  · exact ⟨rfl, fun _ _ => ctlGuard_clockOff⟩

/-- Settles O28: ClockOff is raised exactly when the clock guard fails. -/
theorem clockGuard : Obligations.ClockGuard := by
  intro i r hr v s
  obtain ⟨hw, hg⟩ := writeGuard_clockOff hr
  rw [memWrite_number_raised_iff hw, hg, clockOk_iff]

/-- Settles O29: the enable guard stands behind the clock guard, and is no part of CTL's guard. -/
theorem enableGuard : Obligations.EnableGuard := by
  refine ⟨fun i r hr v s => ?_, fun i v s rn h => ?_⟩
  · obtain ⟨hw, hg⟩ := writeGuard_of_config hr
    rw [memWrite_number_raised_iff hw, hg, configGuard_writeWhileEnabled, clockOk_iff, not_uartOff_iff]
  · exact ctlGuard_ne_writeWhileEnabled i _ rn s (guarded_raised_iff.mp ((memWrite_ctl i v s).symm.trans h))

/-- Settles O30: PINREQ's guard by its two bits, and the two accesses that are always performed. -/
theorem pinClockGuard : Obligations.PinClockGuard := by
  refine ⟨fun v s => ?_, fun v s => ⟨_, memWrite_clken v s⟩, fun s => ⟨_, memRead_clkstat s⟩⟩
  rw [memWrite_pinreq, guarded_raised_iff, pinGuard_pinClockOff, pinClockOk_request_iff]

end Sys2Proof.Machine

/-! PROOF. The command word (30_encoding R61): the value of its fields in sequence, and the answer to an OP other than 1. -/

namespace Sys2Proof

/-- The value of two fields in sequence: the left one stands above the bits of the right one. -/
theorem toNat_append_eq_add {m n : Nat} (x : BitVec m) (y : BitVec n) :
    (x ++ y).toNat = x.toNat * 2 ^ n + y.toNat := by
  rw [BitVec.toNat_append, ← Nat.shiftLeft_add_eq_or_of_lt y.isLt, Nat.shiftLeft_eq]

theorem Inst.toNat_bit (i : Inst) : i.bit.toNat = if i = .u2 then 1 else 0 := by cases i <;> rfl

theorem Sampling.toNat_bit (h : Sampling) : h.bit.toNat = if h = .hs then 1 else 0 := by cases h <;> rfl

theorem StopBits.toNat_bit (s : StopBits) : s.bit.toNat = if s = .two then 1 else 0 := by cases s <;> rfl

/-- The value of an INIT's word, field by field (R61). -/
theorem initWord_toNat (inst : Inst) (hse : Sampling) (stp2 : StopBits) (par wlen : BitVec 2) (baud : BitVec 20) :
    (initWord inst hse stp2 par wlen baud).toNat =
      1 * 2 ^ 28 + 1 * 2 ^ 27 + inst.bit.toNat * 2 ^ 26 + hse.bit.toNat * 2 ^ 25 + stp2.bit.toNat * 2 ^ 24
        + par.toNat * 2 ^ 22 + wlen.toNat * 2 ^ 20 + baud.toNat := by
  have hop : (1 : BitVec 4).toNat = 1 := rfl
  have hvalid : (1 : BitVec 1).toNat = 1 := rfl
  simp only [initWord, toNat_append_eq_add, hop, hvalid]
  omega

/-- The value of a null INIT's word, field by field (R61, R67). -/
theorem nullWord_toNat (ignored : BitVec 27) :
    (nullWord ignored).toNat = 1 * 2 ^ 28 + 0 * 2 ^ 27 + ignored.toNat := by
  have htop : ((1 : BitVec 4) ++ (0 : BitVec 1)).toNat * 2 ^ 27 = 1 * 2 ^ 28 + 0 * 2 ^ 27 := rfl
  rw [← htop]
  exact toNat_append_eq_add _ ignored

/-- OP is what is left of the word above its 28 low bits (R61). -/
theorem opField_toNat (c : CmdWord) : (opField c).toNat = c.toNat / 2 ^ 28 := by
  have hlt : c.toNat / 2 ^ 28 < 2 ^ 4 := Nat.div_lt_of_lt_mul c.isLt
  rw [opField, BitVec.extractLsb'_toNat, Nat.shiftRight_eq_div_pow, Nat.mod_eq_of_lt hlt]

/-- PAR names a setting exactly when it is that setting's code (R63). -/
theorem Parity.ofCode_eq_some_iff {b : BitVec 2} {p : Parity} : Parity.ofCode b = some p ↔ p.code = b :=
  ⟨Parity.code_of_ofCode, fun h => h ▸ Parity.ofCode_code p⟩

/-- The codes of PAR as numbers (R63). -/
theorem Parity.code_eq_iff (b : BitVec 2) (p : Parity) :
    p.code = b ↔ (b.toNat = 0 ∧ p = .disabled) ∨ (b.toNat = 1 ∧ p = .odd) ∨ (b.toNat = 2 ∧ p = .even) := by
  rw [← BitVec.toNat_inj, eq_comm]
  cases p <;> simp [Parity.code]

/-- Settles O3: the values of the two words by their fields, the decoder's answer by OP, and the codes of PAR. -/
theorem commandWordLayout : Obligations.CommandWordLayout := by
  refine ⟨fun inst hse stp2 par wlen baud => ⟨_, rfl, ?_⟩, fun ignored => ⟨_, rfl, nullWord_toNat ignored⟩,
    fun c hop => ?_, fun b p => Parity.ofCode_eq_some_iff.trans (Parity.code_eq_iff b p)⟩
  · rw [initWord_toNat, Inst.toNat_bit, Sampling.toNat_bit, StopBits.toNat_bit]
  · refine decodeCmd_badOpcode fun h => hop ?_
    rw [← opField_toNat, h]
    rfl

end Sys2Proof

/-! PROOF. DIVGEN (40_divgen R81 to R85): the denominator, the range of the fraction, and the value of the pair. -/

namespace Sys2Proof.Machine

theorem factor_eq_ite (hse : Sampling) : factor hse = if hse = .std then 16 else 8 := by cases hse <;> rfl

theorem denominator_pos {baud : BitVec 20} (hse : Sampling) (hb : baud ≠ 0) : 0 < denominator baud hse := by
  have hfactor : 0 < factor hse := by cases hse <;> decide
  exact Nat.mul_pos hfactor (BitVec.toNat_pos_of_ne_zero hb)

/-- The rounded fraction reaches 64 at most, since the remainder stands below the denominator (R84). -/
theorem fracPart_le (ref : Nat) {d : Nat} (hd : 0 < d) : fracPart ref d ≤ 64 := by
  have hr : ref % d < d := Nat.mod_lt ref hd
  have hlt : fracPart ref d < 65 := Nat.div_lt_of_lt_mul (by omega)
  omega

theorem divPair_fst (ref d : Nat) :
    (divPair ref d).1 = if fracPart ref d = 64 then intPart ref d + 1 else intPart ref d := apply_ite Prod.fst ..

theorem divPair_snd (ref d : Nat) :
    (divPair ref d).2 = if fracPart ref d = 64 then 0 else fracPart ref d := apply_ite Prod.snd ..

/-- What is left of the fraction after the carry fits its 6 bits (R85). -/
theorem divPair_snd_lt (ref : Nat) {d : Nat} (hd : 0 < d) : (divPair ref d).2 < 2 ^ 6 := by
  have hle := fracPart_le ref hd
  rw [divPair_snd]
  split <;> omega

/-- At a nonzero baud DIVGEN answers the pair: its first component is cut to 16 bits, its second loses nothing (R85). -/
theorem divgen_eq_some (ref : Nat) {baud : BitVec 20} (hse : Sampling) (hb : baud ≠ 0) :
    ∃ p, divgen ref baud hse = some p ∧ p.1.toNat = (divPair ref (denominator baud hse)).1 % 2 ^ 16 ∧
      p.2.toNat = (divPair ref (denominator baud hse)).2 :=
  ⟨_, if_neg hb, BitVec.toNat_ofNat ..,
    (BitVec.toNat_ofNat ..).trans (Nat.mod_eq_of_lt (divPair_snd_lt ref (denominator_pos hse hb)))⟩

/-- Settles O31: q and r are the quotient and remainder of the reference by d, f is the model's rounded fraction. -/
theorem divgenFormula : Obligations.DivgenFormula := by
  intro ref baud hse hb
  have hd := denominator_pos hse hb
  obtain ⟨p, hp, hibrd, hfbrd⟩ := divgen_eq_some ref hse hb
  rw [divPair_fst] at hibrd
  rw [divPair_snd] at hfbrd
  have hden : denominator baud hse = (if hse = .std then 16 else 8) * baud.toNat := by
    rw [denominator, factor_eq_ite]
  exact ⟨p, denominator baud hse, intPart ref _, ref % _, fracPart ref _, hp, hden, (Nat.div_add_mod' ref _).symm,
    Nat.mod_lt ref hd, Nat.div_mul_le_self _ _, Nat.lt_mul_of_div_lt (Nat.lt_succ_self _) hd, hibrd, hfbrd⟩

end Sys2Proof.Machine

/-! PROOF. LCGEN (41_lcgen R101 to R107): where its fields come to stand, bit by bit. -/

namespace Sys2Proof.Machine

theorem stopBits_bit_getLsbD (stp2 : StopBits) (k : Nat) :
    stp2.bit.getLsbD k = (decide (k = 0) && decide (stp2 = .two)) := by
  cases stp2 <;> simp [StopBits.bit]

/-- PEN is bit 1 and no other (R102). -/
theorem penBit_getLsbD (par : Parity) (k : Nat) :
    (penBit par).getLsbD k = (decide (k = 1) && decide (par ≠ .disabled)) := by
  have htwo : (0x02 : BitVec 8) = BitVec.twoPow 8 1 := rfl
  by_cases hp : par = .disabled <;> simp [penBit, hp, htwo, BitVec.getLsbD_twoPow, eq_comm]

/-- EPS is bit 2 and no other (R102). -/
theorem epsBit_getLsbD (par : Parity) (k : Nat) :
    (epsBit par).getLsbD k = (decide (k = 2) && decide (par = .even)) := by
  have hfour : (0x04 : BitVec 8) = BitVec.twoPow 8 2 := rfl
  by_cases hp : par = .even <;> simp [epsBit, hp, hfour, BitVec.getLsbD_twoPow, eq_comm]

/-- Every bit of LCGEN: no two fields reach the same place, so the `or` of the fields mixes none of them (R104). -/
theorem lcgen_getLsbD (wlen : BitVec 2) (par : Parity) (stp2 : StopBits) {k : Nat} (hk : k < 8) :
    (lcgen wlen par stp2).getLsbD k =
      if 5 ≤ k then wlen.getLsbD (k - 5) else if k = 4 then true else if k = 3 then decide (stp2 = .two)
      else if k = 2 then decide (par = .even) else if k = 1 then decide (par ≠ .disabled) else false := by
  simp only [lcgen, BitVec.getLsbD_or, BitVec.getLsbD_shiftLeft, BitVec.getLsbD_setWidth, stopBits_bit_getLsbD,
    epsBit_getLsbD, penBit_getLsbD]
  have hcases : k = 0 ∨ k = 1 ∨ k = 2 ∨ k = 3 ∨ k = 4 ∨ k = 5 ∨ k = 6 ∨ k = 7 := by omega
  rcases hcases with rfl | rfl | rfl | rfl | rfl | rfl | rfl | rfl <;> simp

/-- The word length stands in bits 6:5 (R101). -/
theorem lcgen_wlen (wlen : BitVec 2) (par : Parity) (stp2 : StopBits) :
    (lcgen wlen par stp2).extractLsb' 5 2 = wlen := by
  ext i hi
  rw [BitVec.getElem_extractLsb', lcgen_getLsbD wlen par stp2 (by omega), if_pos (Nat.le_add_right 5 i),
    Nat.add_sub_cancel_left, BitVec.getLsbD_eq_getElem hi]

/-- Settles O36: bits 6:5 together, then each of the six other bits from LCGEN's value bit by bit. -/
theorem lcgenFields : Obligations.LcgenFields := by
  intro wlen par stp2
  have hbit {k : Nat} (hk : k < 8) := lcgen_getLsbD wlen par stp2 hk
  exact ⟨lcgen_wlen wlen par stp2, hbit (by decide), hbit (by decide), hbit (by decide), hbit (by decide),
    hbit (by decide), (hbit (by decide)).trans (BitVec.getLsbD_of_ge wlen 2 (Nat.le_refl 2))⟩

end Sys2Proof.Machine

/-! PROOF. The acceptance of a valid INIT (42_initseq R117): the fields of its word, and the record that is latched. -/

namespace Sys2Proof.Machine

/-- The fields of an INIT's word, cut out of it again, are the operands (R61). -/
theorem initWord_fields (inst : Inst) (hse : Sampling) (stp2 : StopBits) (par wlen : BitVec 2) (baud : BitVec 20) :
    (initWord inst hse stp2 par wlen baud).extractLsb' 0 20 = baud ∧
    (initWord inst hse stp2 par wlen baud).extractLsb' 20 2 = wlen ∧
    (initWord inst hse stp2 par wlen baud).extractLsb' 22 2 = par ∧
    (initWord inst hse stp2 par wlen baud).extractLsb' 24 1 = stp2.bit ∧
    (initWord inst hse stp2 par wlen baud).extractLsb' 25 1 = hse.bit ∧
    (initWord inst hse stp2 par wlen baud).extractLsb' 26 1 = inst.bit := by
  have hbaud := baud.isLt
  have hwlen := wlen.isLt
  have hpar := par.isLt
  have hstp2 := stp2.bit.isLt
  have hhse := hse.bit.isLt
  have hinst := inst.bit.isLt
  refine ⟨?_, ?_, ?_, ?_, ?_, ?_⟩ <;> apply BitVec.eq_of_toNat_eq
  all_goals
    rw [BitVec.extractLsb'_toNat, Nat.shiftRight_eq_div_pow, initWord_toNat]
    omega

/-- An INIT with legal operands latches its record (R117). -/
theorem execInit_latches {inst : Inst} {hse : Sampling} {stp2 : StopBits} {par wlen : BitVec 2} {baud : BitVec 20}
    {p : Parity} (s : State) (hp : Parity.ofCode par = some p) (hb : Config.baudSet baud = true) :
    execInit inst hse stp2 par wlen baud s =
      .next (latch { baud := baud, wlen := wlen, par := p, stp2 := stp2, hse := hse, inst := inst } s) := by
  rcases execInit_cases inst hse stp2 par wlen baud s with ⟨hn, -⟩ | ⟨hn, -⟩ | ⟨q, hq, -, he⟩
  · cases hp.symm.trans hn
  · cases hb.symm.trans hn
  · cases hp.symm.trans hq
    exact he

/-- Settles O12: the latched record holds the operands, which are the fields of the word. -/
theorem initLatches : Obligations.InitLatches := by
  intro inst hse stp2 par wlen baud s hpar hb
  obtain ⟨p, hp⟩ := Option.ne_none_iff_exists'.mp (mt Parity.ofCode_none.mp hpar)
  obtain ⟨hbaud, hwlen, hcode, hstp2, hhse, hinst⟩ := initWord_fields inst hse stp2 par wlen baud
  refine ⟨_, _, rfl, execInit_latches s hp hb, ?_⟩
  rw [hbaud, hwlen, hcode, hstp2, hhse, hinst, ← Parity.code_of_ofCode hp]
  exact ⟨rfl, rfl, rfl, rfl, rfl, rfl, fun j => PerInst.get_set s.configured inst j false, rfl, rfl⟩

end Sys2Proof.Machine

/-! PROOF. The micro-ops on the clocks (42_initseq R121 to R123): one gate turned on, and the barrier. -/

namespace Sys2Proof.Machine

/-- CLKU's mask is the one bit of the UART clock (R121). -/
theorem uclkMask_eq_twoPow (i : Inst) : uclkMask i = BitVec.twoPow 4 i.index := by cases i <;> rfl

/-- CLKP's mask is the one bit of the pin-block clock (R122). -/
theorem pclkMask_eq_twoPow (i : Inst) : pclkMask i = BitVec.twoPow 4 (2 + i.index) := by cases i <;> rfl

theorem uclkMask_setWidth (i : Inst) : (uclkMask i).setWidth 32 = if i = .u1 then 1 else 2 := by cases i <;> rfl

theorem pclkMask_setWidth (i : Inst) : (pclkMask i).setWidth 32 = if i = .u1 then 4 else 8 := by cases i <;> rfl

theorem twoPow_getLsbD_eq_beq {k b : Nat} (hb : b < 4) : (BitVec.twoPow 4 k).getLsbD b = (b == k) := by
  rw [BitVec.getLsbD_twoPow]
  by_cases h : b = k
  · simp [← h, hb]
  · simp [h, Ne.symm h]

/-- A write of one bit to CLKEN turns that gate on and leaves the others (R51 (b)). -/
theorem setClken_twoPow_clken (k : Nat) (s : State) {b : Nat} (hb : b < 4) :
    (setClken (BitVec.twoPow 4 k) s).clken.getLsbD b = (s.clken.getLsbD b || b == k) := by
  rw [setClken_clken_getLsbD, twoPow_getLsbD_eq_beq hb]

/-- A write of one bit to CLKEN makes that clock unstable if it was off, and leaves the others (R51 (b)). -/
theorem setClken_twoPow_stable (k : Nat) (s : State) {b : Nat} (hb : b < 4) :
    (setClken (BitVec.twoPow 4 k) s).stable.getLsbD b =
      if b = k ∧ s.clken.getLsbD b = false then false else s.stable.getLsbD b := by
  simp only [setClken_stable_getLsbD _ s hb, twoPow_getLsbD_eq_beq hb, beq_iff_eq]

/-- Settles O15: the write of the UART clock's one bit to CLKEN. -/
theorem clkuRuns : Obligations.ClkuRuns := by
  intro s
  refine ⟨_, execClku_eq s, ?_⟩
  rw [uclkMask_setWidth, uclkMask_eq_twoPow]
  exact ⟨fun b hb => setClken_twoPow_clken _ s hb, fun b hb => setClken_twoPow_stable _ s hb, rfl, rfl, rfl⟩

/-- Settles O16: the write of the pin-block clock's one bit to CLKEN. -/
theorem clkpRuns : Obligations.ClkpRuns := by
  intro s
  refine ⟨_, execClkp_eq s, ?_⟩
  rw [pclkMask_setWidth, pclkMask_eq_twoPow]
  exact ⟨fun b hb => setClken_twoPow_clken _ s hb, fun b hb => setClken_twoPow_stable _ s hb, rfl, rfl, rfl⟩

/-- Settles O17: the barrier of the read of CLKSTAT. -/
theorem barrRuns : Obligations.BarrRuns := fun s =>
  ⟨_, execBarr_eq s, fun b _ => barrier_stable_getLsbD s b, rfl, rfl, rfl⟩

end Sys2Proof.Machine

/-! PROOF. The micro-ops on a UART's registers and its pins (42_initseq R124 to R130): what a guard lets through, and
the values written. -/

namespace Sys2Proof.Machine

/-! ### The guards by the bits of the state -/

theorem not_clockOk_of_off {i : Inst} {s : State}
    (h : s.clken.getLsbD i.index = false ∨ s.stable.getLsbD i.index = false) : ¬ clockOk i s = true := by
  rw [Bool.not_eq_true]
  exact Bool.and_eq_false_iff.mpr h

theorem uartOff_of_disabled {i : Inst} {s : State} {c : BitVec 10} (hc : (s.uart.get i).ctl = some c)
    (h0 : c.getLsbD 0 = false) : uartOff i s = true := by
  simp only [uartOff, hc, uarten, h0, Bool.not_false]

/-- A CTL that holds no value counts as enabled (R49). -/
theorem not_uartOff_of_enabled {i : Inst} {s : State}
    (h : ∀ c, (s.uart.get i).ctl = some c → c.getLsbD 0 = true) : ¬ uartOff i s = true := by
  rw [not_uartOff_iff]
  cases hc : (s.uart.get i).ctl with
  | none => exact .inl rfl
  | some c => exact .inr ⟨c, rfl, h c hc⟩

/-- The pin-clock guard by its two bits (R50). -/
theorem pinClockOk_iff {i : Inst} {s : State} :
    pinClockOk i s = true ↔ s.clken.getLsbD (2 + i.index) = true ∧ s.stable.getLsbD (2 + i.index) = true :=
  Bool.and_eq_true_iff

theorem not_pinClockOk_of_off {i : Inst} {s : State}
    (h : s.clken.getLsbD (2 + i.index) = false ∨ s.stable.getLsbD (2 + i.index) = false) :
    ¬ pinClockOk i s = true := by
  rw [Bool.not_eq_true]
  exact Bool.and_eq_false_iff.mpr h

/-! ### How a guarded micro-op ends -/

/-- A micro-op behind the clock guard alone: its effect `t`, or ClockOff (R48, R154). -/
theorem next_of_ctlGuard {i : Inst} {rn : RegNum} {s t : State} {r : Result}
    (hr : r = .next (settle (ctlGuard i rn s) s t)) :
    (s.clken.getLsbD i.index = true → s.stable.getLsbD i.index = true → r = .next t) ∧
    (s.clken.getLsbD i.index = false ∨ s.stable.getLsbD i.index = false →
      r = .next { s with fcode := 4, pc := 14 }) := by
  refine ⟨fun hc hs => ?_, fun hoff => ?_⟩
  · rw [hr, ctlGuard_none.mpr (clockOk_iff.mpr ⟨hc, hs⟩), settle_none]
  · rw [hr, ctlGuard_clockOff.mpr (not_clockOk_of_off hoff)]
    rfl

/-- A micro-op behind the clock guard and the enable guard: its effect `t`, or ClockOff, or else WriteWhileEnabled (R48,
R49, R157). -/
theorem next_of_configGuard {i : Inst} {rn : RegNum} {s t : State} {r : Result}
    (hr : r = .next (settle (configGuard i rn s) s t)) :
    (s.clken.getLsbD i.index = true → s.stable.getLsbD i.index = true →
      ∀ c, (s.uart.get i).ctl = some c → c.getLsbD 0 = false → r = .next t) ∧
    (s.clken.getLsbD i.index = false ∨ s.stable.getLsbD i.index = false →
      r = .next { s with fcode := 4, pc := 14 }) ∧
    (s.clken.getLsbD i.index = true → s.stable.getLsbD i.index = true →
      (∀ c, (s.uart.get i).ctl = some c → c.getLsbD 0 = true) → r = .next { s with fcode := 5, pc := 14 }) := by
  refine ⟨fun hc hs c hctl h0 => ?_, fun hoff => ?_, fun hc hs hen => ?_⟩
  · rw [hr, configGuard_none.mpr ⟨clockOk_iff.mpr ⟨hc, hs⟩, uartOff_of_disabled hctl h0⟩, settle_none]
  · rw [hr, configGuard_clockOff.mpr (not_clockOk_of_off hoff)]
    rfl
  · rw [hr, configGuard_writeWhileEnabled.mpr ⟨clockOk_iff.mpr ⟨hc, hs⟩, not_uartOff_of_enabled hen⟩]
    rfl

/-- A pin request behind the pin-clock guard: its effect `t`, or PinClockOff (R50, R156). -/
theorem next_of_pinGuard {i : Inst} {s t : State} {r : Result}
    (hr : r = .next (settle (pinGuard (pinRequest i) s) s t)) :
    (s.clken.getLsbD (2 + i.index) = true → s.stable.getLsbD (2 + i.index) = true → r = .next t) ∧
    (s.clken.getLsbD (2 + i.index) = false ∨ s.stable.getLsbD (2 + i.index) = false →
      r = .next { s with fcode := 6, pc := 14 }) := by
  refine ⟨fun hc hs => ?_, fun hoff => ?_⟩
  · rw [hr, pinGuard_none.mpr (pinClockOk_iff.mpr ⟨hc, hs⟩), settle_none]
  · have hg : pinGuard (pinRequest i) s = some (.pinClockOff (pinRequest i)) := by
      rw [pinGuard_pinClockOff, pinRequest_inst]
      exact not_pinClockOk_of_off hoff
    rw [hr, hg]
    rfl

/-- A micro-op that writes a register of one UART and moves on leaves the other UART's registers. -/
theorem uartWrite_get (k : StepCode) (e : Txn) (i : Inst) (f : Uart → Uart) (s : State) (j : Inst) :
    (setPc k (addTxn e (updUart i f s))).uart.get j = if j = i then f (s.uart.get j) else s.uart.get j :=
  updUart_get i j f s

/-! ### The values written, in the register's width and in TRACE's -/

theorem ctlOff_eq_ite (h : Sampling) : ctlOff h = if h = .hs then 0x020 else 0x000 := by cases h <;> rfl

theorem ctlOff_setWidth (h : Sampling) : (ctlOff h).setWidth 32 = if h = .hs then 0x020 else 0x000 := by
  cases h <;> rfl

theorem ctlOn_eq_ite (h : Sampling) : ctlOn h = if h = .hs then 0x321 else 0x301 := by cases h <;> rfl

theorem ctlOn_setWidth (h : Sampling) : (ctlOn h).setWidth 32 = if h = .hs then 0x321 else 0x301 := by
  cases h <;> rfl

theorem pinRequest_eq_ite (i : Inst) : pinRequest i = if i = .u1 then 0xE else 0xF := by cases i <;> rfl

theorem pinRequest_setWidth (i : Inst) : (pinRequest i).setWidth 32 = if i = .u1 then 0xE else 0xF := by
  cases i <;> rfl

/-! ### The micro-ops -/

/-- Settles O18: CTL is behind the clock guard alone. -/
theorem disRuns : Obligations.DisRuns := by
  intro s
  obtain ⟨hrun, hoff⟩ := next_of_ctlGuard (execDis_eq s)
  refine ⟨fun hc hs => ⟨_, hrun hc hs, ?_⟩, hoff⟩
  rw [ctlOff_setWidth, ctlOff_eq_ite]
  exact ⟨uartWrite_get _ _ _ _ s, rfl, rfl, rfl⟩

/-- Settles O19: at a nonzero baud DIVGEN has a value, and IBRD is behind both guards. -/
theorem wibrdRuns : Obligations.WibrdRuns := by
  intro s hb
  obtain ⟨p, hp, -⟩ := divgen_eq_some Config.refHz s.work.hse hb
  obtain ⟨hrun, hoff, hen⟩ := next_of_configGuard (execWibrd_eq hp)
  exact ⟨fun hc hs c hctl h0 => ⟨p, hp, _, hrun hc hs c hctl h0, uartWrite_get _ _ _ _ s, rfl, rfl, rfl⟩,
    hoff, hen⟩

/-- Settles O20: at a nonzero baud DIVGEN has a value, and FBRD is behind both guards. -/
theorem wfbrdRuns : Obligations.WfbrdRuns := by
  intro s hb
  obtain ⟨p, hp, -⟩ := divgen_eq_some Config.refHz s.work.hse hb
  obtain ⟨hrun, hoff, hen⟩ := next_of_configGuard (execWfbrd_eq hp)
  exact ⟨fun hc hs c hctl h0 => ⟨p, hp, _, hrun hc hs c hctl h0, uartWrite_get _ _ _ _ s, rfl, rfl, rfl⟩,
    hoff, hen⟩

/-- Settles O22: LCRH is behind both guards. -/
theorem wlcrhRuns : Obligations.WlcrhRuns := by
  intro s
  obtain ⟨hrun, hoff, hen⟩ := next_of_configGuard (execWlcrh_eq s)
  exact ⟨fun hc hs c hctl h0 => ⟨_, hrun hc hs c hctl h0, uartWrite_get _ _ _ _ s, rfl, rfl, rfl⟩,
    hoff, hen⟩

/-- Settles O23: the one request that the pin-clock guard lets out. -/
theorem pinsRuns : Obligations.PinsRuns := by
  intro s
  obtain ⟨hrun, hoff⟩ := next_of_pinGuard (execPins_eq s)
  refine ⟨fun hc hs => ⟨_, hrun hc hs, ?_⟩, hoff⟩
  rw [pinRequest_setWidth, pinRequest_eq_ite]
  exact ⟨pinreqWire_of_append rfl, rfl, rfl, rfl⟩

/-- Settles O24: CTL is behind the clock guard alone, and the completion follows the write. -/
theorem enaRuns : Obligations.EnaRuns := by
  intro s
  obtain ⟨hrun, hoff⟩ := next_of_ctlGuard (execEna_eq s)
  refine ⟨fun hc hs => ⟨_, hrun hc hs, ?_⟩, hoff⟩
  rw [ctlOn_setWidth, ctlOn_eq_ite]
  exact ⟨fun j => by rw [complete_uart, addTxn_uart, updUart_get], rfl,
    fun j => PerInst.get_set s.configured s.work.inst j true, rfl, rfl⟩

end Sys2Proof.Machine

/-! PROOF. The INIT that is refused (60_exceptions R152, R153): BadParity first, then BadBaud. -/

namespace Sys2Proof.Machine

/-- An INIT with the reserved PAR takes BadParity before its BAUD is looked at (R152, R157). -/
theorem execInit_badParity {par : BitVec 2} (hp : Parity.ofCode par = none) (inst : Inst) (hse : Sampling)
    (stp2 : StopBits) (wlen : BitVec 2) (baud : BitVec 20) (s : State) :
    execInit inst hse stp2 par wlen baud s = .next (raise (.badParity (initWord inst hse stp2 par wlen baud)) s) := by
  simp only [execInit, initWith, hp]

/-- An INIT with a legal PAR and a BAUD outside BAUD_SET takes BadBaud (R153, R157). -/
theorem execInit_badBaud {par : BitVec 2} {baud : BitVec 20} {p : Parity} (hp : Parity.ofCode par = some p)
    (hb : Config.baudSet baud = false) (inst : Inst) (hse : Sampling) (stp2 : StopBits) (wlen : BitVec 2) (s : State) :
    execInit inst hse stp2 par wlen baud s = .next (raise (.badBaud (initWord inst hse stp2 par wlen baud)) s) := by
  simp only [execInit, initWith, hp, hb, Bool.false_eq_true, if_false]

/-- BAUD = 0 is below every member of BAUD_SET (R153). -/
theorem baudSet_zero : Config.baudSet 0 = false := by decide

/-- Settles O14: the PAR code 3 alone names no parity, and BAUD is looked at only behind a PAR that names one. -/
theorem initRefuses : Obligations.InitRefuses := by
  refine ⟨fun inst hse stp2 wlen baud s => ?_, fun inst hse stp2 par wlen baud s hpar hbaud => ?_⟩
  · exact execInit_badParity (Parity.ofCode_none.mpr rfl) inst hse stp2 wlen baud s
  · obtain ⟨p, hp⟩ := Option.ne_none_iff_exists'.mp (mt Parity.ofCode_none.mp hpar)
    have hb : Config.baudSet baud = false := hbaud.elim id fun h0 => h0 ▸ baudSet_zero
    exact execInit_badBaud hp hb inst hse stp2 wlen s

end Sys2Proof.Machine

/-! PROOF. Decoding and encoding (30_encoding sections 1 to 3, 20_memory section 2): the two round trips, and the bytes of a
command word. -/

namespace Sys2Proof

/-! ### The two round trips -/

/-- Two neighbouring fields of a word in sequence are the field that spans both; the positions are explicit, to rewrite
along a row of fields from the top. -/
theorem extract_append_extract {n : Nat} (x : BitVec n) (lo width above : Nat) :
    x.extractLsb' (lo + width) above ++ x.extractLsb' lo width = x.extractLsb' lo (above + width) :=
  BitVec.extractLsb'_append_extractLsb'_eq_extractLsb' rfl

/-- OP and CFG_VALID are the top five bits of a command word (R61). -/
theorem opField_append (a : BitVec 5) (b : BitVec 27) : opField (a ++ b : BitVec 32) = a.extractLsb' 1 4 :=
  BitVec.extractLsb'_append_eq_of_le (by decide)

theorem validField_append (a : BitVec 5) (b : BitVec 27) : validField (a ++ b : BitVec 32) = a.extractLsb' 0 1 :=
  BitVec.extractLsb'_append_eq_of_le (by decide)

theorem decodeCmd_initWord (inst : Inst) (hse : Sampling) (stp2 : StopBits) (par wlen : BitVec 2) (baud : BitVec 20) :
    decodeCmd (initWord inst hse stp2 par wlen baud) = .ok (.init inst hse stp2 par wlen baud) := by
  obtain ⟨b, hb⟩ := Laws.MatchesRow.initWord_append inst hse stp2 par wlen baud
  have hop : opField (initWord inst hse stp2 par wlen baud) = 1 := by rw [hb, opField_append]; rfl
  have hvalid : validField (initWord inst hse stp2 par wlen baud) = 1 := by rw [hb, validField_append]; rfl
  obtain ⟨hbaud, hwlen, hpar, hstp2, hhse, hinst⟩ := Machine.initWord_fields inst hse stp2 par wlen baud
  rw [decodeCmd_init hop hvalid, hbaud, hwlen, hpar, hstp2, hhse, hinst, Inst.ofBit_bit, Sampling.ofBit_bit,
    StopBits.ofBit_bit]

theorem decodeCmd_nullWord (ignored : BitVec 27) : decodeCmd (nullWord ignored) = .ok (.initNull ignored) := by
  have hop : opField (nullWord ignored) = 1 := by rw [Laws.MatchesRow.nullWord_append, opField_append]; rfl
  have hvalid : validField (nullWord ignored) = 0 := by rw [Laws.MatchesRow.nullWord_append, validField_append]; rfl
  have hignored : (nullWord ignored).extractLsb' 0 27 = ignored := BitVec.extractLsb'_append_eq_right
  rw [decodeCmd_null hop hvalid, hignored]

/-- Settles O1: a command word by its fields, a micro-op by its code. -/
theorem decodeOfEncode : Obligations.DecodeOfEncode := by
  intro i
  cases i with
  | init inst hse stp2 par wlen baud => exact decodeCmd_initWord inst hse stp2 par wlen baud
  | initNull ignored => exact decodeCmd_nullWord ignored
  | _ => rfl

/-- A word whose OP and CFG_VALID are 1 is the INIT word of its own fields (R61). -/
theorem initWord_of_fields {c : CmdWord} (hop : opField c = 1) (hvalid : validField c = 1) :
    initWord (Inst.ofBit (c.extractLsb' 26 1)) (Sampling.ofBit (c.extractLsb' 25 1))
      (StopBits.ofBit (c.extractLsb' 24 1)) (c.extractLsb' 22 2) (c.extractLsb' 20 2) (c.extractLsb' 0 20) = c := by
  rw [initWord, Inst.bit_ofBit, Sampling.bit_ofBit, StopBits.bit_ofBit, ← hop, ← hvalid, opField, validField]
  rw [extract_append_extract c 27 1, extract_append_extract c 26 1, extract_append_extract c 25 1,
    extract_append_extract c 24 1, extract_append_extract c 22 2, extract_append_extract c 20 2,
    extract_append_extract c 0 20]
  exact BitVec.extractLsb'_eq_self

theorem nullWord_of_fields {c : CmdWord} (hop : opField c = 1) (hvalid : validField c = 0) :
    nullWord (c.extractLsb' 0 27) = c := by
  rw [nullWord, ← hop, ← hvalid, opField, validField]
  rw [extract_append_extract c 27 1, extract_append_extract c 0 27]
  exact BitVec.extractLsb'_eq_self

theorem encode_of_decodeCmd {c : CmdWord} {i : Instr} (h : decodeCmd c = .ok i) : encode i = .cmd c := by
  by_cases hop : opField c = 1
  · rcases (by decide : ∀ v : BitVec 1, v = 0 ∨ v = 1) (validField c) with hvalid | hvalid
    · cases (decodeCmd_null hop hvalid).symm.trans h
      exact congrArg Code.cmd (nullWord_of_fields hop hvalid)
    · cases (decodeCmd_init hop hvalid).symm.trans h
      exact congrArg Code.cmd (initWord_of_fields hop hvalid)
  · cases (decodeCmd_badOpcode hop).symm.trans h

/-- Settles O2: the fields of a command word put in sequence again are the word; a micro-op has one code. -/
theorem encodeOfDecode : Obligations.EncodeOfDecode := by
  intro c i h
  cases c with
  | cmd w => exact encode_of_decodeCmd h
  | ustep k => exact encode_of_decodeUstep h

/-- Settles O4: each of the eight codes, evaluated. -/
theorem specWordsDecode : Obligations.SpecWordsDecode := by
  unfold Obligations.SpecWordsDecode
  decide

/-! ### The bytes of a command word -/

theorem cmdOfBytes_cmdBytes (c : CmdWord) : cmdOfBytes (cmdBytes c) = some c := by
  have hbyte (k : Nat) (hk : k < 4) : busByte 0 c k = c.extractLsb' (8 * k) 8 := busByte_inside 0 c (by omega)
  rw [cmdBytes, hbyte 0 (by decide), hbyte 1 (by decide), hbyte 2 (by decide), hbyte 3 (by decide), cmdOfBytes]
  rw [extract_append_extract c 16 8, extract_append_extract c 8 8, extract_append_extract c 0 8]
  exact congrArg some BitVec.extractLsb'_eq_self

theorem cmdBytes_getD (c : CmdWord) {k : Nat} (hk : k < 4) : (cmdBytes c).getD k 0 = busByte 0 c k := by
  have hcases : k = 0 ∨ k = 1 ∨ k = 2 ∨ k = 3 := by omega
  rcases hcases with rfl | rfl | rfl | rfl <;> rfl

/-- Settles O5: the four bytes are the word cut at bits 8, 16 and 24. -/
theorem commandBytesLittleEndian : Obligations.CommandBytesLittleEndian := by
  intro c
  refine ⟨cmdOfBytes_cmdBytes c, fun b hb => ?_⟩
  rw [cmdBytes_getD c (by omega), busByte_bit 0 c (Nat.mod_lt b (by decide)) (by omega), Nat.div_add_mod]

end Sys2Proof

/-! PROOF. One step by what the state is (42_initseq section 1, 60_exceptions section 3, 70 section 1): reset, the acceptance
of a word, a micro-op, and the states in which no step of UCFG is enabled. -/

namespace Sys2Proof.Machine

/-! ### The step equations -/

theorem step_reset {s : State} (hr : rstNow s = true) : step s = .next (resetStep s) := by
  simp only [step, nextMove_reset hr]

theorem step_accept {s : State} {c : CmdWord} {rest : List CmdWord} {i : Instr} (hr : rstNow s = false)
    (hp : s.pc = 15) (hc : s.hostCmds = c :: rest) (hd : decodeCmd c = .ok i) : step s = exec i (takeWord s) := by
  simp only [step, nextMove_accept hr hp hc, hd]

theorem step_badOpcode {s : State} {c : CmdWord} {rest : List CmdWord} (hr : rstNow s = false) (hp : s.pc = 15)
    (hc : s.hostCmds = c :: rest) (hop : opField c ≠ 1) : step s = .next (raise (.badOpcode c) (takeWord s)) := by
  simp only [step, nextMove_accept hr hp hc, decodeCmd_badOpcode hop]

/-- STEP holds the code of a micro-op: 0 to 8 (R68). -/
theorem le_eight_of_decodeUstep {k : StepCode} {i : Instr} (hd : decodeUstep k = .ok i) : k.toNat ≤ 8 := by
  have hk := encode_of_decodeUstep hd
  cases i with
  | init inst hse stp2 par wlen baud => cases hk
  | initNull ignored => cases hk
  | _ => cases hk; decide

theorem exists_decodeUstep {k : StepCode} (hk : k.toNat ≤ 8) : ∃ i, decodeUstep k = .ok i := by
  have hall : ∀ k : StepCode, k.toNat ≤ 8 → (decodeUstep k matches .ok _) = true := by decide
  have hok := hall k hk
  split at hok
  · next i hi => exact ⟨i, hi⟩
  · cases hok

/-- STEP 15 and 14 name no micro-op. -/
theorem pc_ne_idle_of_decodeUstep {s : State} {i : Instr} (hd : decodeUstep s.pc = .ok i) : s.pc ≠ 15 := by
  intro h
  rw [h] at hd
  cases hd

theorem pc_ne_fault_of_decodeUstep {s : State} {i : Instr} (hd : decodeUstep s.pc = .ok i) : s.pc ≠ 14 := by
  intro h
  rw [h] at hd
  cases hd

theorem step_micro {s : State} {i : Instr} (hr : rstNow s = false) (hd : decodeUstep s.pc = .ok i) :
    step s = exec i (tick s) := by
  simp only [step, nextMove_ustep hr (pc_ne_idle_of_decodeUstep hd) (pc_ne_fault_of_decodeUstep hd), hd]

theorem decodeUstep_reserved {k : StepCode} (hlow : 9 ≤ k.toNat) (hhigh : k.toNat ≤ 13) :
    decodeUstep k = .rejected (.reservedStep k) := by
  revert k; decide

theorem step_reservedStep {s : State} (hr : rstNow s = false) (hlow : 9 ≤ s.pc.toNat) (hhigh : s.pc.toNat ≤ 13) :
    step s = .refused (.reservedStep s.pc) := by
  have h15 : s.pc ≠ 15 := fun h => by rw [h] at hhigh; exact absurd hhigh (by decide)
  have h14 : s.pc ≠ 14 := fun h => by rw [h] at hhigh; exact absurd hhigh (by decide)
  simp only [step, nextMove_ustep hr h15 h14, decodeUstep_reserved hlow hhigh]

theorem step_idle {s : State} (hr : rstNow s = false) (hp : s.pc = 15) (hc : s.hostCmds = []) :
    step s = .next (tick s) := by
  have hm : nextMove s = .wait := by simp [nextMove, hr, hp, hc]
  simp only [step, hm]

theorem step_fault {s : State} (hr : rstNow s = false) (hp : s.pc = 14) :
    step s = if true ∈ s.hostRst then .next (tick s) else .fault (.inFault s.fcode) := by
  by_cases h : true ∈ s.hostRst
  · have hm : nextMove s = .wait := by simp [nextMove, hr, hp, h]
    simp only [step, hm, h, if_true]
  · have hm : nextMove s = .stuck := by simp [nextMove, hr, hp, h]
    simp only [step, hm, h, if_false]

theorem takeWord_eq {s : State} {c : CmdWord} {rest : List CmdWord} (hc : s.hostCmds = c :: rest) :
    takeWord s = { s with hostCmds := rest, hostRst := s.hostRst.tail } := by
  rw [takeWord, hc]
  rfl

/-- Settles O6: the step equations of an accepted word and of a micro-op. -/
theorem stepRunsDecoded : Obligations.StepRunsDecoded := by
  refine ⟨fun s c rest i hr hp hc hd => ?_, fun s i hr hd => step_micro hr hd⟩
  rw [step_accept hr hp hc hd, takeWord_eq hc]

/-- Settles O11: STEP 9 to 13, FAULT, and IDLE with no word. -/
theorem noStepEnabled : Obligations.NoStepEnabled :=
  ⟨fun _ => step_reservedStep, fun _ => step_fault, fun _ => step_idle⟩

/-! ### Reset -/

theorem reset_uart_get (i : Inst) : State.reset.uart.get i = ⟨none, none, none, none⟩ := by cases i <;> rfl

/-- Settles O10: each field of the state after reset. -/
theorem resetState : Obligations.ResetState :=
  ⟨rfl, rfl, rfl, reset_uart_get, rfl, rfl, rfl, by decide, by decide⟩

/-! ### The acceptance of a word -/

/-- Settles O13: a null INIT changes nothing, and its word decodes to it. -/
theorem initNullNoop : Obligations.InitNullNoop := by
  refine ⟨fun ignored s => rfl, fun s ignored c rest hr hp hc he => ?_⟩
  have hd : decodeCmd c = .ok (.initNull ignored) := by
    cases he
    exact decodeCmd_nullWord ignored
  rw [step_accept hr hp hc hd, takeWord_eq hc]
  rfl

/-- A one-bit value is the number of a UART exactly when it selects that UART (R65). -/
theorem index_eq_toNat_iff (j : Inst) (b : BitVec 1) : j.index = b.toNat ↔ j = Inst.ofBit b := by
  revert b; cases j <;> decide

/-- Settles O7: the decoder's three answers, and INIT's three ends. -/
theorem acceptDispatch : Obligations.AcceptDispatch := by
  intro s c rest hr hp hc
  rw [← takeWord_eq hc]
  have hnull := fun hop hv => step_accept hr hp hc (decodeCmd_null (c := c) hop hv)
  have hinit := fun hop hv => step_accept hr hp hc (decodeCmd_init (c := c) hop hv)
  refine ⟨fun hop => step_badOpcode hr hp hc hop, fun hop hv => hnull hop hv, fun hop hv hpar => ?_,
    fun hop hv hpar hb => ?_, fun hop hv hpar hb => ?_⟩
  · exact (hinit hop hv).trans (execInit_badParity (Parity.ofCode_none.mpr hpar) ..)
  · obtain ⟨p, hcode⟩ := Option.ne_none_iff_exists'.mp (mt Parity.ofCode_none.mp hpar)
    exact (hinit hop hv).trans (execInit_badBaud hcode hb ..)
  · obtain ⟨p, hcode⟩ := Option.ne_none_iff_exists'.mp (mt Parity.ofCode_none.mp hpar)
    refine ⟨_, (hinit hop hv).trans (execInit_latches _ hcode hb), rfl, rfl, ?_, ?_, ?_, ?_, fun j => ?_, rfl⟩
    · exact congrArg BitVec.toNat (Parity.code_of_ofCode hcode)
    · exact congrArg BitVec.toNat (StopBits.bit_ofBit _)
    · exact congrArg BitVec.toNat (Sampling.bit_ofBit _)
    · exact congrArg BitVec.toNat (Inst.bit_ofBit _)
    · simp only [index_eq_toNat_iff]
      exact PerInst.get_set s.configured _ j false

end Sys2Proof.Machine

namespace Sys2Proof

/-- Settles O9: the reset step gives UCFG the state after reset and keeps what is outside. -/
theorem resetStep : Obligations.ResetStep := fun s hr =>
  ⟨Machine.resetStep s, Machine.step_reset hr, rfl, rfl, rfl, Machine.reset_uart_get, rfl, rfl, rfl, rfl, rfl⟩

end Sys2Proof

/-! PROOF. What a micro-op comes to (42_initseq R120 to R130): the state it moves on to when no guard stops it, and what all
of them have in common. -/

namespace Sys2Proof.Machine

/-- The state a micro-op moves on to when no guard stops it, with `p` for DIVGEN's pair (R121 to R130). -/
def moveOn (p : BitVec 16 × BitVec 6) (i : Instr) (s : State) : State :=
  match i with
  | .clku => setPc 1 (addTxn (.wr 0x10 ((uclkMask s.work.inst).setWidth 32)) (setClken (uclkMask s.work.inst) s))
  | .clkp => setPc 2 (addTxn (.wr 0x10 ((pclkMask s.work.inst).setWidth 32)) (setClken (pclkMask s.work.inst) s))
  | .barr => setPc 3 (addTxn (.rd 0x11) { barrier s with draws := s.draws + 1 })
  | .dis => setPc 4 (addTxn (.wr (uartRn s.work.inst 3) ((ctlOff s.work.hse).setWidth 32))
      (updUart s.work.inst (fun u => { u with ctl := some (ctlOff s.work.hse) }) s))
  | .wibrd => setPc 5 (addTxn (.wr (uartRn s.work.inst 0) (p.1.setWidth 32))
      (updUart s.work.inst (fun u => { u with ibrd := some p.1 }) s))
  | .wfbrd => setPc 6 (addTxn (.wr (uartRn s.work.inst 1) (p.2.setWidth 32))
      (updUart s.work.inst (fun u => { u with fbrd := some p.2 }) s))
  | .wlcrh => setPc 7 (addTxn (.wr (uartRn s.work.inst 2) ((lcgen s.work.wlen s.work.par s.work.stp2).setWidth 32))
      (updUart s.work.inst (fun u => { u with lcrh := some (lcgen s.work.wlen s.work.par s.work.stp2) }) s))
  | .pins => setPc 8 (addTxn (.wr 0x13 ((pinRequest s.work.inst).setWidth 32))
      (requestPins (pinRequest s.work.inst) s))
  | .ena => complete (addTxn (.wr (uartRn s.work.inst 3) ((ctlOn s.work.hse).setWidth 32))
      (updUart s.work.inst (fun u => { u with ctl := some (ctlOn s.work.hse) }) s))
  | .init .. => s
  | .initNull _ => s

/-- A micro-op that answers a next state took a fault or moved on. -/
theorem exec_micro_moveOn {k : StepCode} {i : Instr} {s t : State} (hd : decodeUstep k = .ok i)
    (h : exec i s = .next t) : (∃ f, t = raise f s) ∨ ∃ p, t = moveOn p i s := by
  rcases exec_micro_next hd h with ⟨-, -, hf⟩ | ⟨rfl, ht⟩ | ⟨rfl, ht⟩ | ⟨rfl, ht⟩ | ⟨rfl, -, ht⟩ |
    ⟨rfl, -, -, p, -, ht⟩ | ⟨rfl, -, -, p, -, ht⟩ | ⟨rfl, -, -, ht⟩ | ⟨rfl, -, ht⟩ | ⟨rfl, -, ht⟩
  · exact .inl hf
  · cases hd; exact .inr ⟨(0, 0), ht⟩
  · cases hd; exact .inr ⟨(0, 0), ht⟩
  · cases hd; exact .inr ⟨(0, 0), ht⟩
  · cases hd; exact .inr ⟨(0, 0), ht⟩
  · cases hd; exact .inr ⟨p, ht⟩
  · cases hd; exact .inr ⟨p, ht⟩
  · cases hd; exact .inr ⟨(0, 0), ht⟩
  · cases hd; exact .inr ⟨(0, 0), ht⟩
  · cases hd; exact .inr ⟨(0, 0), ht⟩

/-! ### What moving on changes and leaves -/

section
variable (p : BitVec 16 × BitVec 6) (i : Instr) (s : State)

@[simp] theorem moveOn_work : (moveOn p i s).work = s.work := by cases i <;> rfl
@[simp] theorem moveOn_fcode : (moveOn p i s).fcode = s.fcode := by cases i <;> rfl
@[simp] theorem moveOn_hostCmds : (moveOn p i s).hostCmds = s.hostCmds := by cases i <;> rfl
@[simp] theorem moveOn_hostRst : (moveOn p i s).hostRst = s.hostRst := by cases i <;> rfl

/-- Only ENA completes the INIT (R130). -/
theorem moveOn_configured (hi : i ≠ .ena) : (moveOn p i s).configured = s.configured := by
  cases i with
  | ena => exact absurd rfl hi
  | _ => rfl

/-- Only PINS makes a pin request (R128). -/
theorem moveOn_pinLog (hi : i ≠ .pins) : (moveOn p i s).pinLog = s.pinLog := by
  cases i with
  | pins => exact absurd rfl hi
  | _ => rfl

/-- A micro-op writes no register of the other UART (R134). -/
theorem moveOn_uart_other {j : Inst} (hj : j ≠ s.work.inst) : (moveOn p i s).uart.get j = s.uart.get j := by
  cases i with
  | dis => exact PerInst.get_set_other s.uart _ hj
  | wibrd => exact PerInst.get_set_other s.uart _ hj
  | wfbrd => exact PerInst.get_set_other s.uart _ hj
  | wlcrh => exact PerInst.get_set_other s.uart _ hj
  | ena => exact PerInst.get_set_other s.uart _ hj
  | _ => rfl

/-- A micro-op turns on one of the two clocks of its UART, or none (R121, R122). -/
theorem moveOn_clken :
    ∃ m ∈ [0, uclkMask s.work.inst, pclkMask s.work.inst], (moveOn p i s).clken = s.clken ||| m := by
  have hnone : s.clken = s.clken ||| 0 := BitVec.or_zero.symm
  cases i with
  | clku => exact ⟨uclkMask s.work.inst, by simp, rfl⟩
  | clkp => exact ⟨pclkMask s.work.inst, by simp, rfl⟩
  | _ => exact ⟨0, by simp, hnone⟩

end

/-- STEP moves on to the next number, and from ENA to IDLE (R120, R130). -/
theorem moveOn_pc {i : Instr} {s : State} (p : BitVec 16 × BitVec 6) (hd : decodeUstep s.pc = .ok i) :
    (s.pc.toNat ≤ 7 ∧ i ≠ .ena ∧ (moveOn p i s).pc = s.pc + 1) ∨ (s.pc = 8 ∧ i = .ena ∧ (moveOn p i s).pc = 15) := by
  have hk := encode_of_decodeUstep hd
  cases i with
  | init inst hse stp2 par wlen baud => cases hk
  | initNull ignored => cases hk
  | ena => exact .inr ⟨(Code.ustep.inj hk).symm, rfl, rfl⟩
  | _ =>
    rw [← Code.ustep.inj hk]
    exact .inl ⟨by decide, nofun, rfl⟩

theorem moveOn_pc_ne_fault {i : Instr} {s : State} (p : BitVec 16 × BitVec 6) (hd : decodeUstep s.pc = .ok i) :
    (moveOn p i s).pc ≠ 14 := by
  rcases moveOn_pc p hd with ⟨hle, -, hpc⟩ | ⟨-, -, hpc⟩
  · have hall : ∀ k : StepCode, k.toNat ≤ 7 → k + 1 ≠ 14 := by decide
    rw [hpc]
    exact hall _ hle
  · rw [hpc]
    decide

/-- Everything a step that answers a next state can have been, a micro-op by how it ended. -/
theorem step_moves {s t : State} (h : step s = .next t) :
    (rstNow s = true ∧ t = Machine.resetStep s) ∨
    (rstNow s = false ∧ s.pc = 15 ∧ s.hostCmds ≠ [] ∧
      (t = takeWord s ∨ (∃ f, (f.fcode = 1 ∨ f.fcode = 2 ∨ f.fcode = 3) ∧ t = raise f (takeWord s)) ∨
        (∃ w : WorkRegs, Config.baudSet w.baud = true ∧ t = latch w (takeWord s)))) ∨
    (rstNow s = false ∧ ∃ i, decodeUstep s.pc = .ok i ∧
      ((∃ f, t = raise f (tick s)) ∨ ∃ p, t = moveOn p i (tick s))) ∨
    (rstNow s = false ∧ (s.pc = 15 ∧ s.hostCmds = [] ∨ s.pc = 14) ∧ t = tick s) :=
  (step_cases h).imp_right <| .imp_right <| .imp_left fun ⟨hr, i, hd, he⟩ => ⟨hr, i, hd, exec_micro_moveOn hd he⟩

end Sys2Proof.Machine

/-! PROOF. The invariant (42_initseq R133, 95_test_vectors part 4): it holds after reset, a micro-op of an INIT in progress is
stopped by no guard, and every step keeps it. -/

namespace Sys2Proof.Machine

/-! ### The guards of an INIT in progress -/

theorem divgen_of_baudSet {baud : BitVec 20} (hse : Sampling) (hb : Config.baudSet baud = true) :
    ∃ p, divgen Config.refHz baud hse = some p := by
  have hne : baud ≠ 0 := fun h0 => by rw [h0, baudSet_zero] at hb; cases hb
  obtain ⟨p, hp, -⟩ := divgen_eq_some Config.refHz hse hne
  exact ⟨p, hp⟩

/-- After BARR the clock guard holds (R48). -/
theorem Progress.clockOk {s : State} (h : Progress s) (h3 : 3 ≤ s.pc.toNat) : clockOk s.work.inst s = true :=
  Bool.and_eq_true_iff.mpr ⟨h.uart_clock (Nat.le_trans (by decide) h3), (h.both_stable h3).1⟩

/-- After BARR the pin-clock guard holds (R50). -/
theorem Progress.pinClockOk {s : State} (h : Progress s) (h3 : 3 ≤ s.pc.toNat) : pinClockOk s.work.inst s = true :=
  Bool.and_eq_true_iff.mpr ⟨h.pin_clock (Nat.le_trans (by decide) h3), (h.both_stable h3).2⟩

/-- After DIS the enable guard holds (R49). -/
theorem Progress.uartOff {s : State} (h : Progress s) (h4 : 4 ≤ s.pc.toNat) : uartOff s.work.inst s = true := by
  refine uartOff_of_disabled (h.disabled h4) ?_
  cases s.work.hse <;> rfl

theorem Progress.configGuard {s : State} (h : Progress s) (h4 : 4 ≤ s.pc.toNat) (rn : RegNum) :
    configGuard s.work.inst rn s = none :=
  configGuard_none.mpr ⟨h.clockOk (Nat.le_of_succ_le h4), h.uartOff h4⟩

/-- STEP is at least what a micro-op's own code is. -/
theorem le_pc_of_code {k : StepCode} {s : State} (hk : Code.ustep k = .ustep s.pc) {n : Nat} (hle : n ≤ k.toNat) :
    n ≤ s.pc.toNat := Code.ustep.inj hk ▸ hle

/-- No guard stops a micro-op of an INIT in progress (R133). -/
theorem Progress.exec_eq {s : State} {i : Instr} {p : BitVec 16 × BitVec 6} (h : Progress s)
    (hd : decodeUstep s.pc = .ok i) (hp : divgen Config.refHz s.work.baud s.work.hse = some p) :
    exec i s = .next (moveOn p i s) := by
  have hk := encode_of_decodeUstep hd
  cases i with
  | init inst hse stp2 par wlen baud => cases hk
  | initNull ignored => cases hk
  | clku => exact execClku_eq s
  | clkp => exact execClkp_eq s
  | barr => exact execBarr_eq s
  | dis => exact (execDis_eq s).trans (by rw [ctlGuard_none.mpr (h.clockOk (le_pc_of_code hk (by decide)))]; rfl)
  | wibrd => exact (execWibrd_eq hp).trans (by rw [h.configGuard (le_pc_of_code hk (by decide))]; rfl)
  | wfbrd => exact (execWfbrd_eq hp).trans (by rw [h.configGuard (le_pc_of_code hk (by decide))]; rfl)
  | wlcrh => exact (execWlcrh_eq s).trans (by rw [h.configGuard (le_pc_of_code hk (by decide))]; rfl)
  | pins => exact (execPins_eq s).trans (by rw [pinGuard_none.mpr (h.pinClockOk (le_pc_of_code hk (by decide)))]; rfl)
  | ena => exact (execEna_eq s).trans (by rw [ctlGuard_none.mpr (h.clockOk (le_pc_of_code hk (by decide)))]; rfl)

/-! ### The fields that are not UCFG's -/

/-- Progress speaks of UCFG's own state alone. -/
theorem Progress.withHost {s : State} (h : Progress s) (cmds : List CmdWord) (rst : List Bool) (draws : Nat)
    (pinLog : List (BitVec 4)) :
    Progress { s with hostCmds := cmds, hostRst := rst, draws := draws, pinLog := pinLog } :=
  ⟨h.baud_in_set, h.not_configured, h.uart_clock, h.pin_clock, h.both_stable, h.disabled, h.ibrd_written,
    h.fbrd_written, h.lcrh_written⟩

/-- The invariant speaks of UCFG's own state alone. -/
theorem Inv.withHost {s : State} (h : Inv s) (cmds : List CmdWord) (rst : List Bool) (draws : Nat)
    (pinLog : List (BitVec 4)) :
    Inv { s with hostCmds := cmds, hostRst := rst, draws := draws, pinLog := pinLog } where
  pc_legal := h.pc_legal
  stable_on := h.stable_on
  fcode_clear := h.fcode_clear
  fcode_fault := h.fcode_fault
  progress hle := (h.progress hle).withHost cmds rst draws pinLog
  enabled_configured := h.enabled_configured
  configured_usable := h.configured_usable
  trace_wf := h.trace_wf

theorem Progress.tick {s : State} (h : Progress s) : Progress (tick s) :=
  h.withHost s.hostCmds s.hostRst.tail s.draws s.pinLog

theorem Inv.tick {s : State} (h : Inv s) : Inv (tick s) := h.withHost s.hostCmds s.hostRst.tail s.draws s.pinLog

theorem Inv.takeWord {s : State} (h : Inv s) : Inv (takeWord s) :=
  h.withHost s.hostCmds.tail s.hostRst.tail s.draws s.pinLog

/-- Settles O47: no clock is on, no UART is enabled or Configured, TRACE is empty. -/
theorem invAtReset : Obligations.InvAtReset where
  pc_legal := by decide
  stable_on := by decide
  fcode_clear _ := rfl
  fcode_fault h := absurd h (by decide)
  progress h := absurd h (by decide)
  enabled_configured i c hc := by rw [reset_uart_get] at hc; cases hc
  configured_usable i hi := by cases i <;> cases hi
  trace_wf := rfl

theorem inv_resetStep (s : State) : Inv (Machine.resetStep s) :=
  Inv.withHost invAtReset s.hostCmds s.hostRst.tail s.draws s.pinLog

/-! ### The acceptance of a word keeps the invariant -/

/-- In IDLE an enabled UART is Configured: no INIT is in progress. -/
theorem Inv.configured_of_idle {s : State} (h : Inv s) (hp : s.pc = 15) {i : Inst} {c : BitVec 10}
    (hc : (s.uart.get i).ctl = some c) (hen : uarten c = true) : s.configured.get i = true := by
  refine (h.enabled_configured i c hc hen).resolve_right fun hbusy => ?_
  rw [hp] at hbusy
  exact absurd hbusy.1 (by decide)

theorem Inv.raise {s : State} (h : Inv s) (hp : s.pc = 15) {f : Cause}
    (hf : f.fcode = 1 ∨ f.fcode = 2 ∨ f.fcode = 3) : Inv (raise f s) where
  pc_legal := .inr (.inl rfl)
  stable_on := h.stable_on
  fcode_clear hne := absurd rfl hne
  fcode_fault _ := hf
  progress hle := absurd hle (show ¬ (14 : StepCode).toNat ≤ 8 by decide)
  enabled_configured _ _ hc hen := .inl (h.configured_of_idle hp hc hen)
  configured_usable := h.configured_usable
  trace_wf := h.trace_wf

/-- Right after acceptance none of the sequence is done. -/
theorem progress_latch {w : WorkRegs} (hw : Config.baudSet w.baud = true) (s : State) : Progress (latch w s) where
  baud_in_set := hw
  not_configured := PerInst.get_set_same s.configured w.inst false
  uart_clock := nofun
  pin_clock := nofun
  both_stable := nofun
  disabled := nofun
  ibrd_written := nofun
  fbrd_written := nofun
  lcrh_written := nofun

theorem Inv.latch {s : State} (h : Inv s) (hp : s.pc = 15) {w : WorkRegs} (hw : Config.baudSet w.baud = true) :
    Inv (latch w s) where
  pc_legal := .inl (show (0 : StepCode).toNat ≤ 8 by decide)
  stable_on := h.stable_on
  fcode_clear _ := h.fcode_clear (by rw [hp]; decide)
  fcode_fault hpc := absurd hpc (show (0 : StepCode) ≠ 14 by decide)
  progress _ := progress_latch hw s
  enabled_configured i c hc hen := by
    by_cases hi : w.inst = i
    · exact .inr ⟨show (0 : StepCode).toNat ≤ 8 by decide, hi⟩
    · exact .inl ((PerInst.get_set_other s.configured false (Ne.symm hi)).trans (h.configured_of_idle hp hc hen))
  configured_usable i hi := by
    rw [latch_configured, PerInst.get_set] at hi
    split at hi
    · cases hi
    · exact h.configured_usable i hi
  trace_wf := h.trace_wf

/-! ### A micro-op keeps the invariant -/

/-- A set of clocks lies within another when each of its bits is set there. -/
theorem and_not_eq_zero_iff {n : Nat} {a b : BitVec n} :
    a &&& ~~~b = 0 ↔ ∀ k, a.getLsbD k = true → b.getLsbD k = true := by
  refine ⟨fun h k ha => ?_, fun h => BitVec.eq_of_getLsbD_eq fun k hk => ?_⟩
  · have hbit : (a &&& ~~~b).getLsbD k = false := by rw [h]; exact BitVec.getLsbD_zero
    rw [BitVec.getLsbD_and, BitVec.getLsbD_not, ha, decide_eq_true (BitVec.lt_of_getLsbD ha)] at hbit
    simpa using hbit
  · refine Eq.trans ?_ BitVec.getLsbD_zero.symm
    rw [BitVec.getLsbD_and, BitVec.getLsbD_not]
    cases ha : a.getLsbD k with
    | false => rfl
    | true => rw [h k ha, Bool.not_true, Bool.and_false, Bool.and_false]

/-- A micro-op makes no clock stable that is off (R51 (b), R55). -/
theorem moveOn_stable_on (p : BitVec 16 × BitVec 6) (i : Instr) {s : State} (h : s.stable &&& ~~~s.clken = 0) :
    (moveOn p i s).stable &&& ~~~(moveOn p i s).clken = 0 := by
  have hon := and_not_eq_zero_iff.mp h
  have hset (v : BitVec 4) : (setClken v s).stable &&& ~~~(setClken v s).clken = 0 := by
    refine and_not_eq_zero_iff.mpr fun k hk => ?_
    rw [setClken_stable, BitVec.getLsbD_and, Bool.and_eq_true_iff] at hk
    rw [setClken_clken, BitVec.getLsbD_or, hon k hk.1, Bool.true_or]
  have hbarr : (barrier s).stable &&& ~~~(barrier s).clken = 0 := by
    refine and_not_eq_zero_iff.mpr fun k hk => ?_
    rw [barrier_stable, BitVec.getLsbD_or, Bool.or_eq_true_iff] at hk
    exact hk.elim (hon k) id
  cases i with
  | clku => exact hset _
  | clkp => exact hset _
  | barr => exact hbarr
  | _ => exact h

theorem uclkMask_getLsbD (i : Inst) : (uclkMask i).getLsbD (uclkBit i) = true := by cases i <;> rfl

theorem pclkMask_getLsbD (i : Inst) : (pclkMask i).getLsbD (pclkBit i) = true := by cases i <;> rfl

/-- A micro-op turns no clock off (R51 (b)). -/
theorem moveOn_clken_mono (p : BitVec 16 × BitVec 6) (i : Instr) {s : State} {b : Nat} (hb : s.clken.getLsbD b = true) :
    (moveOn p i s).clken.getLsbD b = true := by
  obtain ⟨m, -, hm⟩ := moveOn_clken p i s
  rw [hm, BitVec.getLsbD_or, hb, Bool.true_or]

/-- A write of a register of the UART in progress keeps what is done, when the registers due at the next STEP are written. -/
theorem Progress.uartWrite {s : State} (h : Progress s) (h3 : 3 ≤ s.pc.toNat) (k : StepCode) (e : Txn) (f : Uart → Uart)
    (hctl : 4 ≤ k.toNat → (f (s.uart.get s.work.inst)).ctl = some (ctlOff s.work.hse))
    (hibrd : 5 ≤ k.toNat → (f (s.uart.get s.work.inst)).ibrd =
      (divgen Config.refHz s.work.baud s.work.hse).map Prod.fst)
    (hfbrd : 6 ≤ k.toNat → (f (s.uart.get s.work.inst)).fbrd =
      (divgen Config.refHz s.work.baud s.work.hse).map Prod.snd)
    (hlcrh : 7 ≤ k.toNat →
      (f (s.uart.get s.work.inst)).lcrh = some (lcgen s.work.wlen s.work.par s.work.stp2)) :
    Progress (setPc k (addTxn e (updUart s.work.inst f s))) := by
  have hget : (setPc k (addTxn e (updUart s.work.inst f s))).uart.get s.work.inst = f (s.uart.get s.work.inst) :=
    PerInst.get_set_same s.uart s.work.inst _
  exact {
    baud_in_set := h.baud_in_set
    not_configured := h.not_configured
    uart_clock := fun _ => h.uart_clock (Nat.le_trans (by decide) h3)
    pin_clock := fun _ => h.pin_clock (Nat.le_trans (by decide) h3)
    both_stable := fun _ => h.both_stable h3
    disabled := fun hk => (congrArg Uart.ctl hget).trans (hctl hk)
    ibrd_written := fun hk => (congrArg Uart.ibrd hget).trans (hibrd hk)
    fbrd_written := fun hk => (congrArg Uart.fbrd hget).trans (hfbrd hk)
    lcrh_written := fun hk => (congrArg Uart.lcrh hget).trans (hlcrh hk) }

/-- What is done of an INIT in progress stays done, and the micro-op's own part is added (R121 to R128). -/
theorem Progress.moveOn {s : State} {i : Instr} {p : BitVec 16 × BitVec 6} (h : Progress s)
    (hd : decodeUstep s.pc = .ok i) (hp : divgen Config.refHz s.work.baud s.work.hse = some p) (hi : i ≠ .ena) :
    Progress (moveOn p i s) := by
  have hk := encode_of_decodeUstep hd
  cases i with
  | init inst hse stp2 par wlen baud => cases hk
  | initNull ignored => cases hk
  | ena => exact absurd rfl hi
  | clku =>
    exact {
      baud_in_set := h.baud_in_set
      not_configured := h.not_configured
      uart_clock := fun _ => by
        rw [moveOn_work]
        exact (BitVec.getLsbD_or ..).trans (by rw [uclkMask_getLsbD, Bool.or_true])
      pin_clock := nofun
      both_stable := nofun
      disabled := nofun
      ibrd_written := nofun
      fbrd_written := nofun
      lcrh_written := nofun }
  | clkp =>
    exact {
      baud_in_set := h.baud_in_set
      not_configured := h.not_configured
      uart_clock := fun _ => moveOn_clken_mono p .clkp (h.uart_clock (le_pc_of_code hk (by decide)))
      pin_clock := fun _ => by
        rw [moveOn_work]
        exact (BitVec.getLsbD_or ..).trans (by rw [pclkMask_getLsbD, Bool.or_true])
      both_stable := nofun
      disabled := nofun
      ibrd_written := nofun
      fbrd_written := nofun
      lcrh_written := nofun }
  | barr =>
    have hstable {b : Nat} (hb : s.clken.getLsbD b = true) : (Machine.moveOn p .barr s).stable.getLsbD b = true :=
      (barrier_stable_getLsbD s b).trans (if_pos hb)
    have huart := h.uart_clock (le_pc_of_code hk (by decide))
    have hpin := h.pin_clock (le_pc_of_code hk (by decide))
    exact {
      baud_in_set := h.baud_in_set
      not_configured := h.not_configured
      uart_clock := fun _ => huart
      pin_clock := fun _ => hpin
      both_stable := fun _ => ⟨hstable huart, hstable hpin⟩
      disabled := nofun
      ibrd_written := nofun
      fbrd_written := nofun
      lcrh_written := nofun }
  | dis => exact h.uartWrite (le_pc_of_code hk (by decide)) 4 _ _ (fun _ => rfl) nofun nofun nofun
  | wibrd =>
    exact h.uartWrite (le_pc_of_code hk (by decide)) 5 _ _ (fun _ => h.disabled (le_pc_of_code hk (by decide)))
      (fun _ => by rw [hp]; rfl) nofun nofun
  | wfbrd =>
    exact h.uartWrite (le_pc_of_code hk (by decide)) 6 _ _ (fun _ => h.disabled (le_pc_of_code hk (by decide)))
      (fun _ => h.ibrd_written (le_pc_of_code hk (by decide))) (fun _ => by rw [hp]; rfl) nofun
  | wlcrh =>
    exact h.uartWrite (le_pc_of_code hk (by decide)) 7 _ _ (fun _ => h.disabled (le_pc_of_code hk (by decide)))
      (fun _ => h.ibrd_written (le_pc_of_code hk (by decide))) (fun _ => h.fbrd_written (le_pc_of_code hk (by decide)))
      (fun _ => rfl)
  | pins =>
    have h7 : 7 ≤ s.pc.toNat := le_pc_of_code hk (by decide)
    exact {
      baud_in_set := h.baud_in_set
      not_configured := h.not_configured
      uart_clock := fun _ => h.uart_clock (by omega)
      pin_clock := fun _ => h.pin_clock (by omega)
      both_stable := fun _ => h.both_stable (by omega)
      disabled := fun _ => h.disabled (by omega)
      ibrd_written := fun _ => h.ibrd_written (by omega)
      fbrd_written := fun _ => h.fbrd_written (by omega)
      lcrh_written := fun _ => h.lcrh_written h7 }

/-- A micro-op before ENA keeps the invariant: the INIT stays in progress. -/
theorem Inv.moveOn {s : State} {i : Instr} {p : BitVec 16 × BitVec 6} (h : Inv s) (hd : decodeUstep s.pc = .ok i)
    (hp : divgen Config.refHz s.work.baud s.work.hse = some p) (hi : i ≠ .ena)
    (hlog : (moveOn p i s).trace.all Txn.wf = true) : Inv (moveOn p i s) := by
  have hle := le_eight_of_decodeUstep hd
  have hP := h.progress hle
  have hle' : (Machine.moveOn p i s).pc.toNat ≤ 8 := by
    rcases moveOn_pc p hd with ⟨h7, -, hpc⟩ | ⟨-, hena, -⟩
    · have hall : ∀ k : StepCode, k.toNat ≤ 7 → (k + 1).toNat ≤ 8 := by decide
      rw [hpc]
      exact hall _ h7
    · exact absurd hena hi
  exact {
    pc_legal := .inl hle'
    stable_on := moveOn_stable_on p i h.stable_on
    fcode_clear := fun _ => (moveOn_fcode p i s).trans (h.fcode_clear (pc_ne_fault_of_decodeUstep hd))
    fcode_fault := fun h14 => absurd h14 (moveOn_pc_ne_fault p hd)
    progress := fun _ => hP.moveOn hd hp hi
    enabled_configured := fun j c hc hen => by
      rw [moveOn_configured p i s hi, moveOn_work]
      by_cases hj : s.work.inst = j
      · exact .inr ⟨hle', hj⟩
      · rw [moveOn_uart_other p i s (Ne.symm hj)] at hc
        exact .inl ((h.enabled_configured j c hc hen).resolve_right fun hb => hj hb.2)
    configured_usable := fun j hj => by
      rw [moveOn_configured p i s hi] at hj
      have hne : j ≠ s.work.inst := fun he => by rw [he, hP.not_configured] at hj; cases hj
      rw [moveOn_uart_other p i s hne]
      exact h.configured_usable j hj
    trace_wf := hlog }

/-- After ENA the UART in progress is usable. -/
theorem Progress.usable {s : State} (h : Progress s) (h8 : s.pc = 8) (p : BitVec 16 × BitVec 6) :
    Usable ((Machine.moveOn p .ena s).uart.get s.work.inst) := by
  have h7 : 7 ≤ s.pc.toNat := by rw [h8]; decide
  have hget : (Machine.moveOn p .ena s).uart.get s.work.inst =
      { s.uart.get s.work.inst with ctl := some (ctlOn s.work.hse) } := PerInst.get_set_same s.uart s.work.inst _
  obtain ⟨q, hq⟩ := divgen_of_baudSet s.work.hse h.baud_in_set
  rw [hget]
  exact {
    enabled := by cases s.work.hse <;> simp
    ibrd_defined := by rw [h.ibrd_written (by omega), hq]; rfl
    fbrd_defined := by rw [h.fbrd_written (by omega), hq]; rfl
    lcrh_defined := by rw [h.lcrh_written h7]; rfl }

/-- ENA keeps the invariant: the INIT is complete, and its UART is Configured and usable. -/
theorem Inv.moveOn_ena {s : State} (h : Inv s) (h8 : s.pc = 8) (p : BitVec 16 × BitVec 6)
    (hlog : (Machine.moveOn p .ena s).trace.all Txn.wf = true) : Inv (Machine.moveOn p .ena s) where
  pc_legal := .inr (.inr rfl)
  stable_on := h.stable_on
  fcode_clear _ := h.fcode_clear (by rw [h8]; decide)
  fcode_fault h14 := absurd h14 (show (15 : StepCode) ≠ 14 by decide)
  progress hle := absurd hle (show ¬ (15 : StepCode).toNat ≤ 8 by decide)
  enabled_configured j c hc hen := by
    refine .inl ((PerInst.get_set s.configured s.work.inst j true).trans ?_)
    split
    · rfl
    · next hj =>
      rw [moveOn_uart_other p .ena s hj] at hc
      exact (h.enabled_configured j c hc hen).resolve_right fun hb => hj hb.2.symm
  configured_usable j hj := by
    by_cases hne : j = s.work.inst
    · rw [hne]
      exact (h.progress (by rw [h8]; decide)).usable h8 p
    · rw [moveOn_uart_other p .ena s hne]
      exact h.configured_usable j ((PerInst.get_set_other s.configured true hne).symm.trans hj)
  trace_wf := hlog

/-- A micro-op appends transactions of the map only (R41, R69). -/
theorem exec_micro_trace_wf {i : Instr} {s t : State} (hd : decodeUstep s.pc = .ok i) (h : exec i s = .next t)
    (hs : s.trace.all Txn.wf = true) : t.trace.all Txn.wf = true :=
  List.all_eq_true.mpr fun _ he => (exec_micro_mem_trace hd h he).elim (List.all_eq_true.mp hs _) id

/-- A micro-op of a state that meets the invariant is stopped by no guard and keeps the invariant. -/
theorem Inv.exec_micro {s : State} {i : Instr} (h : Inv s) (hd : decodeUstep s.pc = .ok i) :
    ∃ t, exec i s = .next t ∧ t.pc ≠ 14 ∧ Inv t := by
  have hP := h.progress (le_eight_of_decodeUstep hd)
  obtain ⟨p, hp⟩ := divgen_of_baudSet s.work.hse hP.baud_in_set
  have hrun := hP.exec_eq hd hp
  have hlog := exec_micro_trace_wf hd hrun h.trace_wf
  refine ⟨_, hrun, moveOn_pc_ne_fault p hd, ?_⟩
  rcases moveOn_pc p hd with ⟨-, hi, -⟩ | ⟨h8, rfl, -⟩
  · exact h.moveOn hd hp hi hlog
  · exact h.moveOn_ena h8 p hlog

/-! ### Every step -/

/-- Settles O48: a reset, an acceptance, a micro-op and a waiting step each keep the invariant. -/
theorem invStep : Obligations.InvStep := by
  intro s t h ht
  rcases step_cases ht with ⟨-, rfl⟩ | ⟨-, hp, -, rfl | ⟨f, hf, rfl⟩ | ⟨w, hw, rfl⟩⟩ | ⟨-, i, hd, he⟩ | ⟨-, -, rfl⟩
  · exact inv_resetStep s
  · exact h.takeWord
  · exact h.takeWord.raise hp hf
  · exact h.takeWord.latch hp hw
  · obtain ⟨u, hu, -, hinv⟩ := h.tick.exec_micro hd
    cases hu.symm.trans he
    exact hinv
  · exact h.tick

/-- Settles O49: STEP names a micro-op, which the invariant lets through. -/
theorem sequenceRaisesNoFault : Obligations.SequenceRaisesNoFault := by
  intro s h hr hle
  obtain ⟨i, hd⟩ := exists_decodeUstep hle
  obtain ⟨t, ht, hpc, hinv⟩ := h.tick.exec_micro hd
  exact ⟨t, (step_micro hr hd).trans ht, hpc, hinv.fcode_clear hpc⟩

end Sys2Proof.Machine

/-! PROOF. What every step keeps (42_initseq section 4, 10_state, 60_exceptions section 5): the transfers of control, and when
a presented word, the working registers, CONFIGURED, the clocks, TRACE and the pin-request wire change. Each goes through the
cases of `step_moves`. -/

namespace Sys2Proof.Machine

/-- Settles O8: only the acceptance of a word takes it off the port. -/
theorem presentedWordWaits : Obligations.PresentedWordWaits := by
  intro s t h
  rcases step_moves h with ⟨hr, rfl⟩ | ⟨hr, hp, -, rfl | ⟨f, -, rfl⟩ | ⟨w, -, rfl⟩⟩ | ⟨hr, i, hd, ⟨f, rfl⟩ | ⟨p, rfl⟩⟩ |
    ⟨hr, ⟨hp, hc⟩ | hp, rfl⟩
  · simp [hr]
  · simp [hr, hp]
  · simp [hr, hp]
  · simp [hr, hp]
  · exact (if_neg fun hidle => pc_ne_idle_of_decodeUstep hd hidle.2).symm
  · rw [if_neg fun hidle => pc_ne_idle_of_decodeUstep hd hidle.2, moveOn_hostCmds, tick_hostCmds]
  · simp [hc]
  · simp [hp]

/-- The code of a micro-op lies below ENA's or is ENA's (R68). -/
theorem pc_cases_of_decodeUstep {s : State} {i : Instr} (hd : decodeUstep s.pc = .ok i) :
    s.pc.toNat ≤ 7 ∨ s.pc = 8 :=
  (moveOn_pc (0, 0) hd).imp And.left And.left

/-- Settles O40: STEP after each kind of step. -/
theorem controlTransfer : Obligations.ControlTransfer := by
  intro s t h
  rcases step_moves h with ⟨hr, rfl⟩ | ⟨hr, hp, -, rfl | ⟨f, -, rfl⟩ | ⟨w, -, rfl⟩⟩ | ⟨hr, i, hd, ⟨f, rfl⟩ | ⟨p, rfl⟩⟩ |
    ⟨hr, ⟨hp, -⟩ | hp, rfl⟩
  · exact .inl ⟨hr, rfl⟩
  · exact .inr (.inr (.inr (.inr ⟨hr, hp, .inr (.inl hp)⟩)))
  · exact .inr (.inr (.inr (.inr ⟨hr, hp, .inr (.inr rfl)⟩)))
  · exact .inr (.inr (.inr (.inr ⟨hr, hp, .inl rfl⟩)))
  · rcases pc_cases_of_decodeUstep hd with h7 | h8
    · exact .inr (.inl ⟨hr, h7, .inr rfl⟩)
    · exact .inr (.inr (.inl ⟨hr, h8, .inr rfl⟩))
  · rcases moveOn_pc (s := tick s) p hd with ⟨h7, -, hpc⟩ | ⟨h8, -, hpc⟩
    · exact .inr (.inl ⟨hr, h7, .inl hpc⟩)
    · exact .inr (.inr (.inl ⟨hr, h8, .inl hpc⟩))
  · exact .inr (.inr (.inr (.inr ⟨hr, hp, .inr (.inl hp)⟩)))
  · exact .inr (.inr (.inr (.inl ⟨hr, hp, hp⟩)))

/-- Settles O41: in FAULT no word is accepted and STEP names no micro-op. -/
theorem faultIsSticky : Obligations.FaultIsSticky := by
  intro s t h14 h
  rcases step_moves h with ⟨hr, -⟩ | ⟨-, h15, -⟩ | ⟨-, i, hd, -⟩ | ⟨-, -, rfl⟩
  · exact .inl hr
  · cases h14.symm.trans h15
  · exact absurd h14 (pc_ne_fault_of_decodeUstep hd)
  · exact .inr rfl

/-- Settles O43: only a reset and the latch of a record write the working registers. -/
theorem workChangesAtAcceptance : Obligations.WorkChangesAtAcceptance := by
  intro s t h
  rcases step_moves h with ⟨hr, -⟩ | ⟨-, hp, -, rfl | ⟨f, -, rfl⟩ | ⟨w, -, rfl⟩⟩ | ⟨-, i, -, ⟨f, rfl⟩ | ⟨p, rfl⟩⟩ |
    ⟨-, -, rfl⟩
  · exact .inl hr
  · exact .inr (.inl rfl)
  · exact .inr (.inl rfl)
  · exact .inr (.inr ⟨hp, rfl⟩)
  · exact .inr (.inl rfl)
  · exact .inr (.inl (moveOn_work p i (tick s)))
  · exact .inr (.inl rfl)

/-- Settles O44: CLKEN is written by micro-ops alone, and they turn no clock off. -/
theorem clocksStayOn : Obligations.ClocksStayOn := by
  intro s t b h hr hb
  rcases step_moves h with ⟨hrst, -⟩ | ⟨-, -, -, rfl | ⟨f, -, rfl⟩ | ⟨w, -, rfl⟩⟩ | ⟨-, i, -, ⟨f, rfl⟩ | ⟨p, rfl⟩⟩ |
    ⟨-, -, rfl⟩
  · cases hr.symm.trans hrst
  · exact hb
  · exact hb
  · exact hb
  · exact hb
  · exact moveOn_clken_mono p i (s := tick s) hb
  · exact hb

/-- A micro-op takes a fault and leaves TRACE, or moves on with one more entry (R27, R120). -/
theorem exec_micro_trace_growth {i : Instr} {s t : State} (hd : decodeUstep s.pc = .ok i) (h : exec i s = .next t) :
    (t.pc = 14 ∧ t.trace = s.trace) ∨ (t.pc ≠ 14 ∧ ∃ e, t.trace = s.trace ++ [e]) := by
  rcases exec_micro_moveOn hd h with ⟨f, rfl⟩ | ⟨p, rfl⟩
  · exact .inl ⟨rfl, rfl⟩
  · refine .inr ⟨moveOn_pc_ne_fault p hd, ?_⟩
    rcases exec_micro_trace hd h with ⟨f, hf⟩ | ⟨e, -, he⟩
    · exact absurd (congrArg State.pc hf) (moveOn_pc_ne_fault p hd)
    · exact ⟨e, he⟩

/-- Settles O45: of the steps without reset, a micro-op alone makes a transaction. -/
theorem traceGrowth : Obligations.TraceGrowth := by
  intro s t h
  have hidle {k : StepCode} (hk : k = 15 ∨ k = 14) : 8 < k.toNat := by rcases hk with rfl | rfl <;> decide
  rcases step_cases h with ⟨hr, rfl⟩ | ⟨hr, hp, -, rfl | ⟨f, -, rfl⟩ | ⟨w, -, rfl⟩⟩ | ⟨hr, i, hd, he⟩ | ⟨hr, hp, rfl⟩
  · exact .inl ⟨hr, rfl⟩
  · exact .inr (.inr ⟨hr, .inl (hidle (.inl hp)), rfl⟩)
  · exact .inr (.inr ⟨hr, .inr rfl, rfl⟩)
  · exact .inr (.inr ⟨hr, .inl (hidle (.inl hp)), rfl⟩)
  · rcases exec_micro_trace_growth (s := tick s) hd he with ⟨hpc, ht⟩ | ⟨hpc, ht⟩
    · exact .inr (.inr ⟨hr, .inr hpc, ht⟩)
    · exact .inr (.inl ⟨hr, le_eight_of_decodeUstep hd, hpc, ht⟩)
  · exact .inr (.inr ⟨hr, .inl (hidle (hp.imp_left And.left)), rfl⟩)

/-! ### CONFIGURED -/

/-- What ENA writes enables the UART, its transmitter and its receiver (R129). -/
theorem ctlOn_enabled (h : Sampling) : uarten (ctlOn h) = true ∧ txe (ctlOn h) = true ∧ rxe (ctlOn h) = true := by
  cases h <;> decide

theorem moveOn_ena_ctl (p : BitVec 16 × BitVec 6) (s : State) :
    ((moveOn p .ena s).uart.get s.work.inst).ctl = some (ctlOn s.work.hse) :=
  congrArg Uart.ctl (PerInst.get_set_same s.uart s.work.inst _)

/-- An entry that a write of one entry makes differ from before is the one written. -/
theorem PerInst.eq_of_get_set_ne {α : Type} {q : PerInst α} {i j : Inst} {a : α} (h : (q.set i a).get j ≠ q.get j) :
    i = j ∧ (q.set i a).get j = a := by
  by_cases hij : j = i
  · exact ⟨hij.symm, by rw [hij, PerInst.get_set_same]⟩
  · exact absurd (PerInst.get_set_other q a hij) h

/-- CONFIGURED after a step without reset: cleared by an acceptance, set by a fault-free ENA, else as it was. -/
theorem step_configured {s t : State} (h : step s = .next t) (hr : rstNow s = false) :
    t.configured = s.configured ∨
    (s.pc = 15 ∧ t.pc = 0 ∧ t.configured = s.configured.set t.work.inst false) ∨
    (s.pc = 8 ∧ t.pc = 15 ∧ t.configured = s.configured.set s.work.inst true ∧
      (t.uart.get s.work.inst).ctl = some (ctlOn s.work.hse)) := by
  rcases step_moves h with ⟨hrst, -⟩ | ⟨-, hp, -, rfl | ⟨f, -, rfl⟩ | ⟨w, -, rfl⟩⟩ | ⟨-, i, hd, ⟨f, rfl⟩ | ⟨p, rfl⟩⟩ |
    ⟨-, -, rfl⟩
  · cases hr.symm.trans hrst
  · exact .inl rfl
  · exact .inl rfl
  · exact .inr (.inl ⟨hp, rfl, rfl⟩)
  · exact .inl rfl
  · rcases moveOn_pc (s := tick s) p hd with ⟨-, hi, -⟩ | ⟨h8, rfl, hpc⟩
    · exact .inl (moveOn_configured p i (tick s) hi)
    · exact .inr (.inr ⟨h8, hpc, rfl, moveOn_ena_ctl p (tick s)⟩)
  · exact .inl rfl

/-- Settles O42: the two steps that write CONFIGURED, each for one UART with one value. -/
theorem configuredChanges : Obligations.ConfiguredChanges := by
  intro s t i h
  cases hr : rstNow s with
  | true =>
    cases (step_reset hr).symm.trans h
    exact ⟨fun _ ht => (by cases i <;> cases ht), fun _ _ => .inl rfl⟩
  | false =>
    have hchange {j : Inst} {a : Bool} (ht : t.configured = s.configured.set j a)
        (hne : t.configured.get i ≠ s.configured.get i) : j = i ∧ t.configured.get i = a := by
      rw [ht] at hne ⊢
      exact PerInst.eq_of_get_set_ne hne
    rcases step_configured h hr with hsame | ⟨h15, h0, hset⟩ | ⟨h8, h15, hset, hctl⟩
    · rw [hsame]
      exact ⟨fun hf ht => absurd (hf.symm.trans ht) (by decide), fun ht hf => absurd (hf.symm.trans ht) (by decide)⟩
    · refine ⟨fun hf ht => ?_, fun ht hf => .inr ⟨h15, h0, (hchange hset (by rw [ht, hf]; decide)).1⟩⟩
      obtain ⟨-, hfalse⟩ := hchange hset (by rw [ht, hf]; decide)
      cases ht.symm.trans hfalse
    · refine ⟨fun hf ht => ?_, fun ht hf => ?_⟩
      · obtain ⟨rfl, -⟩ := hchange hset (by rw [ht, hf]; decide)
        exact ⟨rfl, h8, rfl, h15, _, hctl, ctlOn_enabled s.work.hse⟩
      · obtain ⟨-, htrue⟩ := hchange hset (by rw [ht, hf]; decide)
        cases hf.symm.trans htrue

/-! ### The other UART -/

/-- The masks of one UART's clocks touch no clock of the other (R134). -/
theorem clkMask_other {i j : Inst} (hj : j ≠ i) {m : BitVec 4} (hm : m ∈ [0, uclkMask i, pclkMask i]) :
    m.getLsbD (uclkBit j) = false ∧ m.getLsbD (pclkBit j) = false := by
  revert m
  cases i <;> cases j
  · exact absurd rfl hj
  · decide
  · decide
  · exact absurd rfl hj

/-- Settles O46: the registers, CONFIGURED and the clocks a micro-op writes are its own UART's. -/
theorem instanceIsolation : Obligations.InstanceIsolation := by
  intro s t j h hr hle hj
  obtain ⟨i, hd⟩ := exists_decodeUstep hle
  rcases exec_micro_moveOn hd ((step_micro hr hd).symm.trans h) with ⟨f, rfl⟩ | ⟨p, rfl⟩
  · exact ⟨rfl, rfl, rfl, rfl⟩
  · obtain ⟨m, hm, hclken⟩ := moveOn_clken p i (tick s)
    obtain ⟨huclk, hpclk⟩ := clkMask_other hj hm
    refine ⟨moveOn_uart_other p i (tick s) hj, ?_, ?_, ?_⟩
    · by_cases hi : i = .ena
      · subst hi
        exact PerInst.get_set_other s.configured true hj
      · rw [moveOn_configured p i (tick s) hi, tick_configured]
    · rw [hclken, BitVec.getLsbD_or, huclk, Bool.or_false, tick_clken]
    · rw [hclken, BitVec.getLsbD_or, hpclk, Bool.or_false, tick_clken]

/-! ### The pin-request wire -/

theorem pinreqWire_eq_none {s t : State} (h : t.pinLog = s.pinLog) : pinreqWire s t = none := by
  rw [pinreqWire, h, List.drop_length]
  rfl

/-- Only PINS puts a request on the wire. -/
theorem step_pinLog {s t : State} (h : step s = .next t) (hne : rstNow s = true ∨ s.pc ≠ 7) : t.pinLog = s.pinLog := by
  rcases step_moves h with ⟨-, rfl⟩ | ⟨-, -, -, rfl | ⟨f, -, rfl⟩ | ⟨w, -, rfl⟩⟩ | ⟨hr, i, hd, ⟨f, rfl⟩ | ⟨p, rfl⟩⟩ |
    ⟨-, -, rfl⟩
  · rfl
  · rfl
  · rfl
  · rfl
  · rfl
  · refine moveOn_pinLog p i (tick s) fun hi => ?_
    subst hi
    rcases hne with hrst | h7
    · cases hr.symm.trans hrst
    · exact h7 (Code.ustep.inj (encode_of_decodeUstep hd)).symm
  · rfl

/-- At STEP 7 the wire carries the request exactly when the pin-clock guard holds (R24, R50, R128). -/
theorem pinreqWire_pins {s t : State} {v : BitVec 4} (h : step s = .next t) (hr : rstNow s = false) (h7 : s.pc = 7) :
    pinreqWire s t = some v ↔ pinClockOk s.work.inst s = true ∧ v = pinRequest s.work.inst := by
  have hd : decodeUstep s.pc = .ok .pins := by rw [h7]; rfl
  have ht := Host.Outcome.next.inj ((execPins_eq (tick s)).symm.trans ((step_micro hr hd).symm.trans h))
  cases hok : pinClockOk s.work.inst s with
  | true =>
    have hg : pinGuard (pinRequest s.work.inst) (tick s) = none := pinGuard_none.mpr hok
    rw [tick_work, hg, settle_none] at ht
    rw [pinreqWire_of_append (s := s) (v := pinRequest s.work.inst) (by rw [← ht]; rfl), Option.some.injEq, eq_comm]
    exact (and_iff_right rfl).symm
  | false =>
    have hg : pinGuard (pinRequest s.work.inst) (tick s) = some (.pinClockOff (pinRequest s.work.inst)) := by
      rw [pinGuard_pinClockOff, pinRequest_inst]
      exact Bool.not_eq_true _ ▸ hok
    rw [tick_work, hg, settle_some] at ht
    rw [pinreqWire_eq_none (by rw [← ht]; rfl)]
    exact ⟨nofun, fun hf => nomatch hf.1⟩

/-- Settles O39: only PINS makes a request, and it makes the one its guard lets out. -/
theorem pinRequestWire : Obligations.PinRequestWire := by
  intro s t v h
  by_cases hpins : rstNow s = false ∧ s.pc = 7
  · obtain ⟨hr, h7⟩ := hpins
    rw [pinreqWire_pins h hr h7, pinClockOk_iff, pinRequest_eq_ite]
    simp only [hr, h7, true_and, and_assoc]
  · have hne : rstNow s = true ∨ s.pc ≠ 7 := by
      cases hr : rstNow s
      · exact .inr fun h7 => hpins ⟨hr, h7⟩
      · exact .inl rfl
    rw [pinreqWire_eq_none (step_pinLog h hne)]
    exact ⟨nofun, fun ⟨hr, h7, _⟩ => absurd ⟨hr, h7⟩ hpins⟩

end Sys2Proof.Machine

/-! PROOF. DIVGEN in closed form (40_divgen sections 1 to 3) and LCGEN (41_lcgen): the pair as one number of 64ths, its bounds,
the carry, a divisor write without a value, and LCGEN's injectivity. -/

namespace Sys2Proof.Machine

/-! ### DIVGEN in 64ths -/

/-- Quotient and fraction together are the reference in 64ths, divided and rounded once (R90): the carry moves 64 of them. -/
theorem divPair_closed (ref : Nat) {d : Nat} (hd : 0 < d) :
    64 * (divPair ref d).1 + (divPair ref d).2 = (64 * ref + d / 2) / d := by
  have hcarry : 64 * (divPair ref d).1 + (divPair ref d).2 = 64 * intPart ref d + fracPart ref d := by
    rw [divPair_fst, divPair_snd]
    split <;> omega
  have hsplit : 64 * ref + d / 2 = ref % d * 64 + d / 2 + d * (64 * (ref / d)) := by
    have hdiv := Nat.mod_add_div ref d
    have hcomm : d * (64 * (ref / d)) = 64 * (d * (ref / d)) := Nat.mul_left_comm ..
    omega
  rw [hcarry, hsplit, Nat.add_mul_div_left _ _ hd, intPart, fracPart, Nat.add_comm]

theorem factor_ge (hse : Sampling) : 8 ≤ factor hse := by cases hse <;> decide

theorem denominator_ge {baud : BitVec 20} (hse : Sampling) {n : Nat} (hb : n ≤ baud.toNat) :
    8 * n ≤ denominator baud hse := Nat.mul_le_mul (factor_ge hse) hb

/-- For a legal reference clock the integer divisor fits its 16 bits (R5, R85). -/
theorem divPair_fst_lt {ref d : Nat} (href : Config.RefHzLegal ref) (hd : 8 * 2400 ≤ d) :
    (divPair ref d).1 < 2 ^ 16 := by
  have hq : intPart ref d ≤ ref / (8 * 2400) := Nat.div_le_div_left hd (by decide)
  have hmax := href.2.2
  rw [divPair_fst]
  split <;> omega

theorem ne_zero_of_baud_ge {baud : BitVec 20} (hb : 2400 ≤ baud.toNat) : baud ≠ 0 := fun h0 => by
  rw [h0] at hb
  exact absurd hb (by decide)

/-- Settles O32: neither narrowing loses a bit, and the pair is one rounded quotient. -/
theorem divgenClosedForm : Obligations.DivgenClosedForm := by
  intro ref baud hse href hb
  have hne := ne_zero_of_baud_ge hb
  obtain ⟨p, hp, hibrd, hfbrd⟩ := divgen_eq_some ref hse hne
  refine ⟨p, hp, ?_⟩
  rw [hibrd, hfbrd, Nat.mod_eq_of_lt (divPair_fst_lt href (denominator_ge hse hb)),
    divPair_closed ref (denominator_pos hse hne)]

/-- A rounded quotient is within half of the divisor of the exact one, in doubled numbers. -/
theorem two_mul_round_bounds (a : Nat) {d : Nat} (hd : 0 < d) :
    2 * ((a + d / 2) / d) * d ≤ 2 * a + d ∧ 2 * a ≤ 2 * ((a + d / 2) / d) * d + d := by
  have hdiv := Nat.div_add_mod' (a + d / 2) d
  have hmod := Nat.mod_lt (a + d / 2) hd
  rw [Nat.mul_assoc]
  omega

/-- Settles O33: the pair in 64ths is a rounded quotient. -/
theorem divgenNearest : Obligations.DivgenNearest := by
  intro ref baud hse href hb
  obtain ⟨p, hp, hN⟩ := divgenClosedForm ref baud hse href hb
  refine ⟨p, hp, ?_⟩
  have hround := two_mul_round_bounds (64 * ref) (denominator_pos hse (ne_zero_of_baud_ge hb))
  rw [hN]
  omega

/-- Settles O34: in 64ths the divisor is at least 64 and less than 64 * 834. -/
theorem divgenRange : Obligations.DivgenRange := by
  intro baud hse hlow hhigh
  obtain ⟨p, hp, hN⟩ := divgenClosedForm 16000000 baud hse (by decide) hlow
  refine ⟨p, hp, ?_⟩
  have hfbrd := p.2.isLt
  have hmin : 8 * 2400 ≤ denominator baud hse := denominator_ge hse hlow
  have hmax : denominator baud hse ≤ 16 * 1000000 := Nat.mul_le_mul (by cases hse <;> decide) hhigh
  have hpos : 0 < denominator baud hse := Nat.lt_of_lt_of_le (by decide) hmin
  have hge : 64 ≤ 64 * p.1.toNat + p.2.toNat := by
    rw [hN]
    exact (Nat.le_div_iff_mul_le hpos).mpr (by omega)
  have hlt : 64 * p.1.toNat + p.2.toNat < 64 * 834 := by
    rw [hN]
    exact Nat.div_lt_of_lt_mul (by omega)
  omega

/-- The denominator is even, so that halving it loses nothing (R81, R82). -/
theorem two_mul_half_denominator (baud : BitVec 20) (hse : Sampling) :
    2 * (denominator baud hse / 2) = denominator baud hse := by
  cases hse <;> simp only [denominator, factor] <;> omega

/-- Settles O35: the fraction is 64 exactly when `64 * d` fits into its numerator. -/
theorem divgenCarry : Obligations.DivgenCarry := by
  intro ref baud hse hb
  have hd := denominator_pos hse hb
  have hle := fracPart_le ref hd
  have hhalf := two_mul_half_denominator baud hse
  have hge : 64 ≤ fracPart ref (denominator baud hse) ↔
      64 * denominator baud hse ≤ ref % denominator baud hse * 64 + denominator baud hse / 2 :=
    Nat.le_div_iff_mul_le hd
  omega

/-! ### LCGEN -/

theorem Parity.eq_of_bits {p q : Parity} (hpen : decide (p ≠ .disabled) = decide (q ≠ .disabled))
    (heps : decide (p = .even) = decide (q = .even)) : p = q := by
  revert hpen heps
  cases p <;> cases q <;> decide

theorem StopBits.eq_of_bit {a b : StopBits} (h : decide (a = .two) = decide (b = .two)) : a = b := by
  revert h
  cases a <;> cases b <;> decide

/-- Settles O37: each field is read back from its bits. -/
theorem lcgenInjective : Obligations.LcgenInjective := by
  intro w w' p p' b b' h
  obtain ⟨hw, hpen, heps, hstp, -, -, -⟩ := lcgenFields w p b
  obtain ⟨hw', hpen', heps', hstp', -, -, -⟩ := lcgenFields w' p' b'
  rw [h] at hw hpen heps hstp
  exact ⟨hw.symm.trans hw', Parity.eq_of_bits (hpen.symm.trans hpen') (heps.symm.trans heps'),
    StopBits.eq_of_bit (hstp.symm.trans hstp')⟩

/-! ### A divisor write without a value -/

/-- A divisor write without a DIVGEN value: refused when both guards hold, else the guard's fault (R86). -/
theorem noDivisor_of_configGuard {r : Reg} {i : Inst} {s : State}
    (hg : writeGuard r (0 : BitVec 16) s = configGuard i r.number s) :
    (s.clken.getLsbD i.index = true → s.stable.getLsbD i.index = true →
      ∀ c, (s.uart.get i).ctl = some c → c.getLsbD 0 = false → noDivisor r s = .refused .divgenNoValue) ∧
    (s.clken.getLsbD i.index = false ∨ s.stable.getLsbD i.index = false →
      noDivisor r s = .next { s with fcode := 4, pc := 14 }) ∧
    (s.clken.getLsbD i.index = true → s.stable.getLsbD i.index = true →
      (∀ c, (s.uart.get i).ctl = some c → c.getLsbD 0 = true) →
      noDivisor r s = .next { s with fcode := 5, pc := 14 }) := by
  refine ⟨fun hc hs c hctl h0 => ?_, fun hoff => ?_, fun hc hs hen => ?_⟩
  · rw [noDivisor, hg, configGuard_none.mpr ⟨clockOk_iff.mpr ⟨hc, hs⟩, uartOff_of_disabled hctl h0⟩]
  · rw [noDivisor, hg, configGuard_clockOff.mpr (not_clockOk_of_off hoff)]
    rfl
  · rw [noDivisor, hg, configGuard_writeWhileEnabled.mpr ⟨clockOk_iff.mpr ⟨hc, hs⟩, not_uartOff_of_enabled hen⟩]
    rfl

theorem exec_divisor_of_baud_zero {s : State} {i : Instr} (hb : s.work.baud = 0) (hi : i ∈ [.wibrd, .wfbrd]) :
    ∃ r, exec i s = noDivisor r s ∧ writeGuard r (0 : BitVec 16) s = configGuard s.work.inst r.number s := by
  simp only [List.mem_cons, List.not_mem_nil, or_false] at hi
  rcases hi with rfl | rfl
  · exact ⟨_, execWibrd_none hb, rfl⟩
  · exact ⟨_, execWfbrd_none hb, rfl⟩

end Sys2Proof.Machine

namespace Sys2Proof

/-- Settles O21: both divisor registers are behind the clock guard and the enable guard. -/
theorem noDivisor : Obligations.NoDivisor := by
  intro s i hb hi
  obtain ⟨r, he, hg⟩ := Machine.exec_divisor_of_baud_zero hb hi
  rw [he]
  exact Machine.noDivisor_of_configGuard hg

end Sys2Proof

/-! PROOF. The run of a valid INIT (42_initseq R131, R135, R136): its acceptance and nine micro-ops, the state they end in, and
the same INIT a second time. -/

namespace Sys2Proof.Machine

/-! ### Runs -/

theorem run_succ {k : Nat} {s t : State} (h : step s = .next t) :
    Host.Core.run core (k + 1) s = Host.Core.run core k t := by
  have hstep : core.step s = .next t := h
  simp only [Host.Core.run, hstep]

/-- The host asserts no reset, now or later (log entry 1). -/
def Quiet (s : State) : Prop := ∀ b ∈ s.hostRst, b = false

theorem Quiet.rstNow {s : State} (h : Quiet s) : rstNow s = false := by
  unfold Machine.rstNow
  cases hr : s.hostRst with
  | nil => rfl
  | cons b later => exact h b (by rw [hr]; exact List.mem_cons_self)

theorem Quiet.of_drop {s t : State} (h : Quiet s) {n : Nat} (ht : t.hostRst = s.hostRst.drop n) : Quiet t :=
  fun b hb => h b (List.mem_of_mem_drop (ht ▸ hb))

/-! ### The nine micro-ops -/

/-- The micro-ops in their order (R131). -/
def sequence : List Instr := [.clku, .clkp, .barr, .dis, .wibrd, .wfbrd, .wlcrh, .pins, .ena]

/-- The state after these micro-ops, one in each step, when no guard stops them. -/
def performed (p : BitVec 16 × BitVec 6) (is : List Instr) (s : State) : State :=
  is.foldl (fun t i => moveOn p i (tick t)) s

/-- STEP is the place in the sequence (R68, R131). -/
theorem decodeUstep_of_sequence {k : StepCode} {i : Instr} {is : List Instr} (h : sequence.drop k.toNat = i :: is) :
    decodeUstep k = .ok i ∧ sequence.drop (k.toNat + 1) = is := by
  have hall : ∀ k : StepCode, ∀ i ∈ sequence[k.toNat]?, decodeUstep k = .ok i := by decide
  refine ⟨hall k i ?_, ?_⟩
  · rw [← List.head?_drop, h]
    rfl
  · rw [← List.tail_drop, h]
    rfl

/-- The rest of the sequence runs from an INIT in progress, when no reset comes (R133). -/
theorem run_sequence {p : BitVec 16 × BitVec 6} {is : List Instr} {s : State} (hP : Progress s) (hq : Quiet s)
    (hp : divgen Config.refHz s.work.baud s.work.hse = some p) (his : sequence.drop s.pc.toNat = is) (n : Nat) :
    Host.Core.run core (is.length + n) s = Host.Core.run core n (performed p is s) := by
  induction is generalizing s with
  | nil => exact congrArg (Host.Core.run core · s) (Nat.zero_add n)
  | cons i is ih =>
    obtain ⟨hd, hrest⟩ := decodeUstep_of_sequence his
    have hstep : step s = .next (moveOn p i (tick s)) :=
      (step_micro hq.rstNow hd).trans (hP.tick.exec_eq hd hp)
    rw [List.length_cons, Nat.succ_add, run_succ hstep]
    rcases moveOn_pc (s := tick s) p hd with ⟨h7, hi, hpc⟩ | ⟨h8, -, -⟩
    · have hall : ∀ k : StepCode, k.toNat ≤ 7 → (k + 1).toNat = k.toNat + 1 := by decide
      refine ih (hP.tick.moveOn hd hp hi) (hq.of_drop (n := 1) ?_) ?_ ?_
      · rw [moveOn_hostRst, tick_hostRst, List.drop_one]
      · rw [moveOn_work]
        exact hp
      · rw [hpc, hall _ h7]
        exact hrest
    · have h8 : s.pc = 8 := h8
      rw [h8] at hrest
      subst hrest
      exact congrArg (Host.Core.run core · _) (Nat.zero_add n)

/-! ### The state the sequence ends in -/

section
variable (p : BitVec 16 × BitVec 6) (s : State)

/-- What no micro-op changes is as before after all of them. -/
theorem performed_field {α : Type} (field : State → α) (hfield : ∀ i t, field (moveOn p i (tick t)) = field t)
    (is : List Instr) : field (performed p is s) = field s := by
  induction is generalizing s with
  | nil => rfl
  | cons i is ih => exact (ih _).trans (hfield i s)

theorem performed_work (is : List Instr) : (performed p is s).work = s.work :=
  performed_field p s State.work (fun i t => moveOn_work p i (tick t)) is

theorem performed_fcode (is : List Instr) : (performed p is s).fcode = s.fcode :=
  performed_field p s State.fcode (fun i t => moveOn_fcode p i (tick t)) is

theorem performed_hostCmds (is : List Instr) : (performed p is s).hostCmds = s.hostCmds :=
  performed_field p s State.hostCmds (fun i t => moveOn_hostCmds p i (tick t)) is

theorem performed_hostRst (is : List Instr) : (performed p is s).hostRst = s.hostRst.drop is.length := by
  induction is generalizing s with
  | nil => rfl
  | cons i is ih =>
    refine (ih _).trans ?_
    rw [moveOn_hostRst, tick_hostRst, List.drop_tail, List.length_cons]

theorem sequence_configured : (performed p sequence s).configured = s.configured.set s.work.inst true := rfl

theorem sequence_uart : (performed p sequence s).uart = s.uart.set s.work.inst
    ⟨some p.1, some p.2, some (lcgen s.work.wlen s.work.par s.work.stp2), some (ctlOn s.work.hse)⟩ := by
  simp [performed, sequence, moveOn]

theorem sequence_trace : (performed p sequence s).trace = s.trace ++
    [.wr 0x10 ((uclkMask s.work.inst).setWidth 32), .wr 0x10 ((pclkMask s.work.inst).setWidth 32), .rd 0x11,
      .wr (uartRn s.work.inst 3) ((ctlOff s.work.hse).setWidth 32), .wr (uartRn s.work.inst 0) (p.1.setWidth 32),
      .wr (uartRn s.work.inst 1) (p.2.setWidth 32),
      .wr (uartRn s.work.inst 2) ((lcgen s.work.wlen s.work.par s.work.stp2).setWidth 32),
      .wr 0x13 ((pinRequest s.work.inst).setWidth 32), .wr (uartRn s.work.inst 3) ((ctlOn s.work.hse).setWidth 32)] := by
  simp [performed, sequence, moveOn]

end

/-! ### A valid INIT from IDLE -/

/-- The state a valid INIT with record `w` comes back to IDLE with. -/
def initEnd (p : BitVec 16 × BitVec 6) (w : WorkRegs) (s : State) : State :=
  performed p sequence (latch w (takeWord s))

/-- A valid INIT presented in IDLE is in its end state after ten of the steps, when no reset comes (R131). -/
theorem run_init {s : State} {c : CmdWord} {rest : List CmdWord} {w : WorkRegs} {p : BitVec 16 × BitVec 6}
    (h15 : s.pc = 15) (hq : Quiet s) (hc : s.hostCmds = c :: rest)
    (he : encode (.init w.inst w.hse w.stp2 w.par.code w.wlen w.baud) = .cmd c)
    (hb : Config.baudSet w.baud = true) (hp : divgen Config.refHz w.baud w.hse = some p) (n : Nat) :
    Host.Core.run core (n + 10) s = Host.Core.run core n (initEnd p w s) := by
  have hd : decodeCmd c = .ok (.init w.inst w.hse w.stp2 w.par.code w.wlen w.baud) := by
    cases he
    exact decodeCmd_initWord ..
  have hstep : step s = .next (latch w (takeWord s)) :=
    (step_accept hq.rstNow h15 hc hd).trans (execInit_latches _ (Parity.ofCode_code w.par) hb)
  have hquiet : Quiet (latch w (takeWord s)) := hq.of_drop (n := 1) List.drop_one.symm
  rw [run_succ hstep, Nat.add_comm n 9]
  exact run_sequence (progress_latch hb _) hquiet hp rfl n

section
variable (p : BitVec 16 × BitVec 6) (w : WorkRegs) (s : State)

theorem initEnd_work : (initEnd p w s).work = w := performed_work ..

theorem initEnd_pc : (initEnd p w s).pc = 15 := rfl

theorem initEnd_fcode : (initEnd p w s).fcode = s.fcode := performed_fcode ..

theorem initEnd_configured : (initEnd p w s).configured = s.configured.set w.inst true := by
  rw [initEnd, sequence_configured]
  exact PerInst.set_set ..

theorem initEnd_uart : (initEnd p w s).uart =
    s.uart.set w.inst ⟨some p.1, some p.2, some (lcgen w.wlen w.par w.stp2), some (ctlOn w.hse)⟩ := sequence_uart ..

theorem initEnd_clken : (initEnd p w s).clken = s.clken ||| uclkMask w.inst ||| pclkMask w.inst := rfl

/-- CLKU and CLKP unsettle the clocks they newly turn on, BARR settles every clock that is on (R51 (b), R55). -/
theorem initEnd_stable : (initEnd p w s).stable =
    (setClken (pclkMask w.inst) (setClken (uclkMask w.inst) s)).stable ||| (initEnd p w s).clken := rfl

theorem initEnd_hostCmds : (initEnd p w s).hostCmds = s.hostCmds.tail := performed_hostCmds ..

theorem initEnd_hostRst : (initEnd p w s).hostRst = s.hostRst.drop 10 := by
  rw [initEnd, performed_hostRst]
  exact List.drop_tail

end

/-- Settles O50: ten steps to the end state, field by field. -/
theorem initEndState : Obligations.InitEndState := by
  intro s inst hse stp2 par wlen baud c rest h15 hq hc he hb
  obtain ⟨p, hp⟩ := divgen_of_baudSet hse hb
  let w : WorkRegs := { baud := baud, wlen := wlen, par := par, stp2 := stp2, hse := hse, inst := inst }
  refine ⟨initEnd p w s, p, run_init (w := w) h15 hq hc he hb hp 0, hp, initEnd_work .., initEnd_pc ..,
    initEnd_fcode .., fun j => ?_, fun j => ?_, initEnd_clken .., fun b hon => ?_, sequence_trace .., ?_⟩
  · rw [initEnd_configured, PerInst.get_set]
  · rw [initEnd_uart, PerInst.get_set]
  · rw [initEnd_stable, BitVec.getLsbD_or]
    exact Bool.or_eq_true_iff.mpr (.inr hon)
  · rw [initEnd_hostCmds, hc, List.tail_cons]

/-! ### The same INIT again -/

/-- Two states that agree in all of UCFG but TRACE differ in TRACE and the model's own fields only. -/
theorem State.eq_of_ucfg {t u : State} (hwork : u.work = t.work) (hpc : u.pc = t.pc) (hfcode : u.fcode = t.fcode)
    (hconf : u.configured = t.configured) (huart : u.uart = t.uart) (hclken : u.clken = t.clken)
    (hstable : u.stable = t.stable) :
    u = { t with trace := u.trace, hostCmds := u.hostCmds, hostRst := u.hostRst, draws := u.draws, pinLog := u.pinLog } := by
  rw [← hwork, ← hpc, ← hfcode, ← hconf, ← huart, ← hclken, ← hstable]

/-- A write to CLKEN of clocks that are on already unsettles none (R51 (b)). -/
theorem setClken_stable_of_on {v : BitVec 4} {s : State} (h : s.clken ||| v = s.clken) :
    (setClken v s).stable = s.stable := by
  refine BitVec.eq_of_getLsbD_eq fun b hb => ?_
  rw [setClken_stable_getLsbD v s hb]
  refine if_neg fun ⟨hv, hoff⟩ => ?_
  rw [← h, BitVec.getLsbD_or, hv, Bool.or_true] at hoff
  cases hoff

section
variable (p : BitVec 16 × BitVec 6) (w : WorkRegs) (s : State)

theorem initEnd_uclk_on : (initEnd p w s).clken ||| uclkMask w.inst = (initEnd p w s).clken := by
  rw [initEnd_clken, BitVec.or_assoc, BitVec.or_comm (pclkMask w.inst), ← BitVec.or_assoc,
    BitVec.or_assoc (x := s.clken), BitVec.or_self]

theorem initEnd_pclk_on : (initEnd p w s).clken ||| pclkMask w.inst = (initEnd p w s).clken := by
  rw [initEnd_clken, BitVec.or_assoc, BitVec.or_self]

theorem initEnd_again_clken : (initEnd p w (initEnd p w s)).clken = (initEnd p w s).clken := by
  rw [initEnd_clken p w (initEnd p w s), initEnd_uclk_on, initEnd_pclk_on]

theorem initEnd_again_stable : (initEnd p w (initEnd p w s)).stable = (initEnd p w s).stable := by
  have hpclk : (setClken (uclkMask w.inst) (initEnd p w s)).clken ||| pclkMask w.inst =
      (setClken (uclkMask w.inst) (initEnd p w s)).clken := by
    rw [setClken_clken, initEnd_uclk_on, initEnd_pclk_on]
  have hsettled : (initEnd p w s).stable ||| (initEnd p w s).clken = (initEnd p w s).stable := by
    rw [initEnd_stable, BitVec.or_assoc, BitVec.or_self]
  rw [initEnd_stable p w (initEnd p w s), setClken_stable_of_on hpclk, setClken_stable_of_on (initEnd_uclk_on p w s),
    initEnd_again_clken, hsettled]

theorem initEnd_again_configured : (initEnd p w (initEnd p w s)).configured = (initEnd p w s).configured := by
  rw [initEnd_configured, initEnd_configured, PerInst.set_set]

theorem initEnd_again_uart : (initEnd p w (initEnd p w s)).uart = (initEnd p w s).uart := by
  rw [initEnd_uart, initEnd_uart, PerInst.set_set]

end

/-- Settles O51: the second INIT runs from the first one's end state, in which its clocks are on and settled. -/
theorem initIdempotent : Obligations.InitIdempotent := by
  intro s inst hse stp2 par wlen baud c rest h15 hq hc he hb
  obtain ⟨p, hp⟩ := divgen_of_baudSet hse hb
  let w : WorkRegs := { baud := baud, wlen := wlen, par := par, stp2 := stp2, hse := hse, inst := inst }
  have hcmds : (initEnd p w s).hostCmds = c :: rest := by
    rw [initEnd_hostCmds, hc, List.tail_cons]
  have hquiet : Quiet (initEnd p w s) := Quiet.of_drop hq (initEnd_hostRst p w s)
  refine ⟨initEnd p w s, initEnd p w (initEnd p w s), run_init (w := w) h15 hq hc he hb hp 0, ?_, ?_⟩
  · rw [run_init (w := w) h15 hq hc he hb hp 10]
    exact run_init (w := w) (initEnd_pc ..) hquiet hcmds he hb hp 0
  · exact State.eq_of_ucfg ((initEnd_work ..).trans (initEnd_work ..).symm)
      ((initEnd_pc ..).trans (initEnd_pc ..).symm) (initEnd_fcode ..) (initEnd_again_configured ..) (initEnd_again_uart ..)
      (initEnd_again_clken ..) (initEnd_again_stable ..)

end Sys2Proof.Machine
